-- ==== Sys2Proof/Word.lean ====
section
/-! DEFINITION. The word types of the engine (00_scope.md R7, R8). -/

namespace Sys2Proof

/-- A datapath, command or data word: WORD_BITS = CMD_BITS = DATA_BITS = 32 (R7). -/
abbrev Word := BitVec 32

/-- A byte of a message or a digest; only the host handles bytes (20_memory.md R35). -/
abbrev Byte := BitVec 8

/-- The chaining value, H_WORDS = 8 words (R7). -/
abbrev Chain := Vector Word 8

/-- A message block, BLOCK_WORDS = 16 words (R7). -/
abbrev Block := Vector Word 16

/-- A message schedule, SCHED_WORDS = 64 words (R7). -/
abbrev Schedule := Vector Word 64

end Sys2Proof
end

