-- ==== Sys2Proof/Syntax.lean ====
section
/-! DEFINITION. The instructions: one constructor per row of spec/opcode_table.json. Seven host commands
(30_encoding.md R53) and the two engine steps, which have no encoding (R60). -/

namespace Sys2Proof

/-- A row of the opcode table with its operands. `idx` is the command word's IDX field, bits 3:0 (R52, R54);
`word` is the separate data word wdata (R49). A command that uses no wdata carries none (R57). -/
inductive Instr where
  /-- NOP (44_commands.md R98) -/
  | nop
  /-- INIT (R99) -/
  | init
  /-- WRM idx, word (R100) -/
  | wrm (idx : BitVec 4) (word : Word)
  /-- WRH idx, word (R101) -/
  | wrh (idx : BitVec 4) (word : Word)
  /-- RDH idx (R102) -/
  | rdh (idx : BitVec 4)
  /-- START (R103) -/
  | start
  /-- RDSTAT (R104) -/
  | rdstat
  /-- ROUND, an engine step (43_compression.md R93) -/
  | round
  /-- FINAL, an engine step (R94) -/
  | final
deriving DecidableEq, Repr

/-- Whether the host can issue the instruction: "The engine's own steps, ROUND and FINAL, have no command
encoding. The host cannot issue them." (R60) -/
def Instr.isCommand : Instr → Bool
  | .nop => true
  | .init => true
  | .wrm _ _ => true
  | .wrh _ _ => true
  | .rdh _ => true
  | .start => true
  | .rdstat => true
  | .round => false
  | .final => false

/-- The commands legal while BUSY = 1: NOP and RDSTAT (R53, R106). -/
def Instr.legalWhileBusy : Instr → Bool
  | .nop => true
  | .init => false
  | .wrm _ _ => false
  | .wrh _ _ => false
  | .rdh _ => false
  | .start => false
  | .rdstat => true
  | .round => false
  | .final => false

/-- The column "uses wdata" of R53. -/
def Instr.usesWdata : Instr → Bool
  | .nop => false
  | .init => false
  | .wrm _ _ => true
  | .wrh _ _ => true
  | .rdh _ => false
  | .start => false
  | .rdstat => false
  | .round => false
  | .final => false

end Sys2Proof
end

