-- ==== Sys2Proof/WellFormed.lean ====
section
/-! DEFINITION. Which instruction terms are well formed: the index ranges of 30_encoding.md R53. -/

namespace Sys2Proof

/-- The index is one of the entries the operation admits: WRM 0..15 (every 4-bit index), WRH and RDH 0..7
("IDX legal values", R53; "WRH with idx = 8..15 is illegal", 44_commands.md R101). -/
def Instr.wellFormed : Instr → Bool
  | .nop => true
  | .init => true
  | .wrm _ _ => true
  | .wrh idx _ => idx.toNat < 8
  | .rdh idx => idx.toNat < 8
  | .start => true
  | .rdstat => true
  | .round => true
  | .final => true

end Sys2Proof
end

