-- ==== Sys2Proof/Decode.lean ====
section
/-! DEFINITION. The command decoder of 30_encoding.md R55, total on the 2^32 command words, and after it the
encoder, written from the format of R52 and the opcode map of R53. -/

namespace Sys2Proof

/-- OP, bits 31:28 of a command word (R52). -/
def opField (cmd : Word) : BitVec 4 := cmd.extractLsb' 28 4

/-- RSV, bits 27:4 (R52). -/
def rsvField (cmd : Word) : BitVec 24 := cmd.extractLsb' 4 24

/-- IDX, bits 3:0 (R52). -/
def idxField (cmd : Word) : BitVec 4 := cmd.extractLsb' 0 4

/-- `decode` of R55, its tests in the rule's order. `none` is ILLEGAL. The data word is the operand of WRM and
WRH and is dropped by every other command (R57). -/
def decode (cmd wdata : Word) : Option Instr :=
  let op := opField cmd
  let idx := idxField cmd
  if rsvField cmd ≠ 0 then none
  else if op = 0x0 ∧ idx = 0 then some .nop
  else if op = 0x1 ∧ idx = 0 then some .init
  else if op = 0x2 then some (.wrm idx wdata)
  else if op = 0x3 ∧ idx.getLsbD 3 = false then some (.wrh idx wdata)
  else if op = 0x4 ∧ idx.getLsbD 3 = false then some (.rdh idx)
  else if op = 0x5 ∧ idx = 0 then some .start
  else if op = 0x6 ∧ idx = 0 then some .rdstat
  else none

/-- The host's numbering of an instruction's bits: the command word is bits 31..0, the data word bits 63..32
(log 11). The bits above `nbits` are 0. -/
def tableWords (nbits w : Nat) : Word × Word :=
  let v := w % 2 ^ nbits
  (BitVec.ofNat 32 v, BitVec.ofNat 32 (v / 2 ^ 32))

/-- The instruction the decoder reads from a word of the opcode table. One instruction is one command word and
one data word (R59), so a value with bits above bit 63 is none. -/
def decodeTableWord (nbits w : Nat) : Option Instr :=
  if w % 2 ^ nbits < 2 ^ 64 then decode (tableWords nbits w).1 (tableWords nbits w).2 else none

/-- The OP code of each mnemonic (R53); none for the engine steps (R60). -/
def Instr.opcode : Instr → Option (BitVec 4)
  | .nop => some 0x0
  | .init => some 0x1
  | .wrm _ _ => some 0x2
  | .wrh _ _ => some 0x3
  | .rdh _ => some 0x4
  | .start => some 0x5
  | .rdstat => some 0x6
  | .round => none
  | .final => none

/-- The IDX field of an instruction; "must be 0 for operations without one" (R52). -/
def Instr.idxOperand : Instr → BitVec 4
  | .nop => 0
  | .init => 0
  | .wrm idx _ => idx
  | .wrh idx _ => idx
  | .rdh idx => idx
  | .start => 0
  | .rdstat => 0
  | .round => 0
  | .final => 0

/-- The data word the assembler gives: the word operand, "0x00000000 for every mnemonic that takes no word
operand" (R61). -/
def Instr.wdataOperand : Instr → Word
  | .nop => 0
  | .init => 0
  | .wrm _ word => word
  | .wrh _ word => word
  | .rdh _ => 0
  | .start => 0
  | .rdstat => 0
  | .round => 0
  | .final => 0

/-- The command word with fields OP, RSV = 0 and IDX (R52). -/
def commandWord (op idx : BitVec 4) : Word := op ++ (0#24 : BitVec 24) ++ idx

/-- The pair (cmd, wdata) of a command; none for the engine steps, which "have no command encoding" (R60). -/
def encode (i : Instr) : Option (Word × Word) :=
  match i.opcode with
  | some op => some (commandWord op i.idxOperand, i.wdataOperand)
  | none => none

end Sys2Proof
end

