-- ==== Sys2Proof/Config.lean ====
section
/-! DEFINITION. What an implementation or a platform fixes, and the free values the spec leaves unspecified.
Every constant here is opaque: no proof can see a value of it. -/

namespace Sys2Proof

/-- M[i] after the n-th reset turn: "M, a..h, W and j become unspecified: the model gives them no value"
(70_reset_and_hazards.md R134). DESIGN CHOICE, safe: a free value (log 3). -/
opaque Config.resetM : Nat → Nat → Word

/-- reg[i] (R17) after the n-th reset turn, a free value (R134, log 3). -/
opaque Config.resetReg : Nat → Nat → Word

/-- W[i] after the n-th reset turn, a free value (R134, log 3). -/
opaque Config.resetW : Nat → Nat → Word

/-- The round counter after the n-th reset turn, a free value (R134, log 3). -/
opaque Config.resetJ : Nat → BitVec 7

/-- ENGINE_LATENCY, the OPEN parameter of 00_scope.md R7 and 70_reset_and_hazards.md R142 (nominal 65).
"The model has no time": no definition reads it (log 16). -/
opaque Config.engineLatency : Nat

/-- CMD_BASE, the OPEN parameter of the platform (20_memory.md R34). No definition reads it (log 16). -/
opaque Config.cmdBase : Nat

end Sys2Proof
end

