-- ==== Sys2Proof/Machine/State.lean ====
section
/-! DEFINITION. The state of SHA256-CE (10_state.md), the reasons a step can stop, and the state after reset
(70_reset_and_hazards.md R134). -/

namespace Sys2Proof.Machine

/-- The cause codes of STATUS.CAUSE (10_state.md R24, 60_exceptions.md R118). Code 3 is reserved and "never
written", so it has no name here (DEDUCED, log 4). -/
inductive Cause where
  | none
  | illegalCmd
  | busyViolation
deriving DecidableEq, Repr

/-- STATUS by its fields (R20). The reserved bits 3 and 31:6 read 0; `Status.word` in Flags.lean is the 32-bit
word of R25. -/
structure Status where
  busy  : Bool
  done  : Bool
  err   : Bool
  cause : Cause
deriving DecidableEq, Repr

/-- The working registers a..h (R17). -/
structure Working where
  a : Word
  b : Word
  c : Word
  d : Word
  e : Word
  f : Word
  g : Word
  h : Word
deriving DecidableEq, Repr

/-- One item of the host's command program: a command (cmd, wdata) on the port (30_encoding.md R49), or the
pseudo-instruction `wait`, the only one with control flow (R62). The other pseudo-instructions expand to these
(Machine/Assembler.lean). `nextMessage` issues no command: it stands where the host, which alone knows it, ends one message
and begins the next ("between messages", 70_reset_and_hazards.md R138 P3; log 21). -/
inductive HostItem where
  | command (cmd wdata : Word)
  | wait
  | nextMessage
deriving DecidableEq, Repr

/-- The agents that take steps: the host, the engine sequencer, and the platform's reset (00_scope.md R12). -/
inductive Turn where
  | host
  | engine
  | reset
deriving DecidableEq, Repr

/-- The machine. The first six fields are the engine's state, "exactly the elements in this table" (R14);
`Mvalid` and `faulted` are the model-only elements of R27; `rsp` is the response of the command port (30_encoding.md
R49, R50); the last four are the model's own and hold the agents' inputs (log 3, log 5, log 6). -/
structure State where
  /-- the chaining value H[0..7] (R15) -/
  H        : Vector Word 8
  /-- the message-block input M[0..15] (R16) -/
  M        : Vector Word 16
  /-- the working registers a..h (R17) -/
  work     : Working
  /-- the message schedule W[0..63] (R18) -/
  W        : Vector Word 64
  /-- the round counter j (R19) -/
  j        : BitVec 7
  /-- STATUS (R20) -/
  status   : Status
  /-- Mvalid[0..15], model-only (R27) -/
  Mvalid   : Vector Bool 16
  /-- the sticky bit set by model_fault, model-only (R27) -/
  faulted  : Bool
  /-- the response of the command port: absent is rsp_valid = 0 and rdata = 0 (R50, log 7) -/
  rsp      : Option Word
  /-- the host's remaining command program (log 6) -/
  program  : List HostItem
  /-- the rdata words the host has received, oldest first (70_reset_and_hazards.md R143) -/
  received : List Word
  /-- which agent acts in each coming step (20_memory.md R42, log 5) -/
  turns    : List Turn
  /-- how many reset turns have passed: the index of the next reset's free values (log 3) -/
  resets   : Nat
deriving DecidableEq, Repr

/-- Why a step stops with a fault. None is a fault of the hardware, which has no trap (60_exceptions.md R125). -/
inductive Fault where
  /-- Raised by a host turn that would issue a command while faulted = 1: "`stuck` for claims: faulted stays 1, even
  across reset, and the run never ends successfully" (93_implementation_defined.md item 23). Safe. -/
  | modelFaulted
  /-- Raised by execRound and execFinal in a state where the sequencer of 43_compression.md R91 does not enable that
  step; the host cannot issue it (30_encoding.md R60). Safe. -/
  | engineStepNotEnabled
  /-- Raised by an engine turn with BUSY = 1 and j > 64, which R91 calls unreachable. Safe. -/
  | counterOutOfRange
deriving DecidableEq, Repr

/-- Why a step is refused. -/
inductive Refusal where
  /-- Raised by an arm of exec whose instruction has no meaning yet; no arm of this model raises it. Safe. -/
  | notModelled (mnemonic : String)
deriving DecidableEq, Repr

/-- STATUS = 0x00000000 (R20, R134). -/
def Status.zero : Status := { busy := false, done := false, err := false, cause := .none }

/-- All eight working registers zero (DESIGN CHOICE at reset, log 2). -/
def Working.zero : Working := ⟨0, 0, 0, 0, 0, 0, 0, 0⟩

/-- The machine right after reset: H = IV, STATUS = 0, every Mvalid bit 0, no response (R134), faulted = 0
(95_test_vectors.md section 6). R134 leaves M, a..h, W and j unspecified: the zeros here are DESIGN CHOICE (log 1, log 2).
The host has no program and no turn is scheduled (log 5, log 6, log 10). -/
def State.reset : State :=
  { H := IV
    M := Vector.replicate 16 0
    work := Working.zero
    W := Vector.replicate 64 0
    j := 0
    status := Status.zero
    Mvalid := Vector.replicate 16 false
    faulted := false
    rsp := none
    program := []
    received := []
    turns := []
    resets := 0 }

end Sys2Proof.Machine
end

