-- ==== Sys2Proof/Machine/Datapath.lean ====
section
/-! DEFINITION. The combinational functions of the engine (40_datapath.md), the schedule expander's word
(42_schedule.md) and the round logic (43_compression.md) as pure functions: "None reads or writes state, sets a flag
or raises an error" (R63). -/

namespace Sys2Proof.Machine

/-- ROTR(x, n) = (x >> n) or (x << (32 - n)) (R64). -/
def ROTR (x : Word) (n : Nat) : Word := (x >>> n) ||| (x <<< (32 - n))

/-- SHR(x, n), the logical right shift (R65). -/
def SHR (x : Word) (n : Nat) : Word := x >>> n

/-- R66, the source's s0. -/
def SSIG0 (x : Word) : Word := ROTR x 7 ^^^ ROTR x 18 ^^^ SHR x 3

/-- R67, the source's s1. -/
def SSIG1 (x : Word) : Word := ROTR x 17 ^^^ ROTR x 19 ^^^ SHR x 10

/-- R68, the source's S1. -/
def BSIG1 (e : Word) : Word := ROTR e 6 ^^^ ROTR e 11 ^^^ ROTR e 25

/-- R69, the source's S0. -/
def BSIG0 (a : Word) : Word := ROTR a 2 ^^^ ROTR a 13 ^^^ ROTR a 22

/-- R70, the choose function. -/
def CH (e f g : Word) : Word := (e &&& f) ^^^ (~~~e &&& g)

/-- R71, the majority function. -/
def MAJ (a b c : Word) : Word := (a &&& b) ^^^ (a &&& c) ^^^ (b &&& c)

/-- ADD32: the integer sum truncated to bits 31..0, no carry kept (R72). -/
def ADD32 (x y : Word) : Word := BitVec.ofNat 32 (x.toNat + y.toNat)

/-- SUMn: the integer sum of the operands truncated to 32 bits (R73). -/
def SUM (xs : List Word) : Word := BitVec.ofNat 32 (xs.map BitVec.toNat).sum

/-- The T1 tree, SUM5 (R74); `k` is K[j] and `wj` is W[j]. -/
def T1 (r : Working) (k wj : Word) : Word := SUM [r.h, BSIG1 r.e, CH r.e r.f r.g, k, wj]

/-- The T2 adder (R75). -/
def T2 (r : Working) : Word := ADD32 (BSIG0 r.a) (MAJ r.a r.b r.c)

/-- The register update of one round, a tuple assignment (R93, R76). -/
def Working.round (r : Working) (k wj : Word) : Working :=
  { a := ADD32 (T1 r k wj) (T2 r)
    b := r.a
    c := r.b
    d := r.c
    e := ADD32 r.d (T1 r k wj)
    f := r.e
    g := r.f
    h := r.g }

/-- The schedule tree, SUM4 (R77), for 16 <= j. -/
def scheduleWord (W : Schedule) (j : Fin 64) : Word :=
  SUM [W[j.val - 16]'(by omega), SSIG0 (W[j.val - 15]'(by omega)), W[j.val - 7]'(by omega),
    SSIG1 (W[j.val - 2]'(by omega))]

/-- EXPAND(j) (R87): writes W[j] for j >= 16 and does nothing for j < 16. -/
def expand (W : Schedule) (j : Fin 64) : Schedule :=
  if 16 ≤ j.val then W.set j.val (scheduleWord W j) else W

/-- LOAD's first line: (a, ..., h) <- (H[0], ..., H[7]) (R92). -/
def Working.ofChain (H : Chain) : Working :=
  { a := H[0], b := H[1], c := H[2], d := H[3], e := H[4], f := H[5], g := H[6], h := H[7] }

/-- LOAD's second line: W[0..15] <- M[0..15], the other entries kept (R92). -/
def loadSchedule (W : Schedule) (M : Block) : Schedule :=
  Vector.ofFn fun i => if h : i.val < 16 then M[i.val] else W[i.val]

/-- The feed-forward adders: H_next[i] = ADD32(H[i], reg[i]) (R78). -/
def feedForward (H : Chain) (r : Working) : Chain :=
  #v[ADD32 H[0] r.a, ADD32 H[1] r.b, ADD32 H[2] r.c, ADD32 H[3] r.d,
     ADD32 H[4] r.e, ADD32 H[5] r.f, ADD32 H[6] r.g, ADD32 H[7] r.h]

end Sys2Proof.Machine
end

