-- ==== Sys2Proof/Machine/Flags.lean ====
section
/-! DEFINITION. STATUS: its word as the host reads it and every action that changes it, "exactly START, INIT, WRH,
FINAL, error() and reset" (10_state.md R30). -/

namespace Sys2Proof.Machine

/-- The cause codes of 60_exceptions.md R118. -/
def Cause.code : Cause → BitVec 2
  | .none => 0
  | .illegalCmd => 1
  | .busyViolation => 2

/-- STATUS = zext_32({CAUSE[1:0], 0b0, ERR, DONE, BUSY}) (R25). -/
def Status.word (s : Status) : Word :=
  (s.cause.code ++ 0#1 ++ BitVec.ofBool s.err ++ BitVec.ofBool s.done ++ BitVec.ofBool s.busy).setWidth 32

/-- error(cause): CAUSE is written only when ERR was 0; ERR <- 1 (R117). -/
def Status.error (s : Status) (c : Cause) : Status :=
  { s with cause := if s.err then s.cause else c, err := true }

/-- START: BUSY <- 1, DONE <- 0 (44_commands.md R103). -/
def Status.started (s : Status) : Status := { s with busy := true, done := false }

/-- FINAL: BUSY <- 0, DONE <- 1 (43_compression.md R94). -/
def Status.finished (s : Status) : Status := { s with busy := false, done := true }

/-- INIT and WRH: DONE <- 0 (R99, R101). -/
def Status.clearDone (s : Status) : Status := { s with done := false }

end Sys2Proof.Machine
end

