-- ==== Sys2Proof/Machine/Operands.lean ====
section
/-! DEFINITION. The operand forms: the index of a command used as an entry number of H or M (30_encoding.md R54), the
numbered view of the working registers (10_state.md R17), and the round counter as an address of W and K
(41_round_constants.md R80). -/

namespace Sys2Proof.Machine

/-- The entry of M a WRM names: the 4-bit index itself, "not scaled, not offset and not sign-extended" (R54). -/
def mIndex (idx : BitVec 4) : Fin 16 := ⟨idx.toNat, idx.isLt⟩

/-- The entry of H a WRH or RDH names: the index when IDX[3] = 0, none when it is 8..15 (R53, R54). -/
def hIndex (idx : BitVec 4) : Option (Fin 8) :=
  if h : idx.toNat < 8 then some ⟨idx.toNat, h⟩ else none

/-- The notation reg[i]: reg[0] = a, ..., reg[7] = h (R17). -/
def Working.reg (r : Working) (i : Fin 8) : Word := #v[r.a, r.b, r.c, r.d, r.e, r.f, r.g, r.h][i.val]

/-- The counter as an address of W and K: a number while j <= 63, none for FINAL's j = 64 and above (R80, R91). -/
def roundIndex (j : BitVec 7) : Option (Fin 64) :=
  if h : j.toNat < 64 then some ⟨j.toNat, h⟩ else none

end Sys2Proof.Machine
end

