-- ==== Sys2Proof/Machine/Ops.lean ====
section
/-! DEFINITION. The named operations on the state, shared by the meanings: register writes, the response, recording an
error (the engine's only "raise", 00_scope.md R11), the model fault, LOAD, the two engine steps, the sequencer's choice
and reset. -/

namespace Sys2Proof.Machine

/-- rdata <- v (R11): the response of the current command. -/
def respond (v : Word) (s : State) : State := { s with rsp := some v }

/-- rsp_valid = 0 and rdata = 0: the response of an earlier command is gone (30_encoding.md R50). -/
def clearRsp (s : State) : State := { s with rsp := none }

/-- H[i] <- v. -/
def writeH (i : Fin 8) (v : Word) (s : State) : State := { s with H := s.H.set i.val v }

/-- All eight H entries from the IV ROM (44_commands.md R99). -/
def loadIV (s : State) : State := { s with H := IV }

/-- M[i] <- v and Mvalid[i] <- 1 (R100). -/
def writeM (i : Fin 16) (v : Word) (s : State) : State :=
  { s with M := s.M.set i.val v, Mvalid := s.Mvalid.set i.val true }

/-- DONE <- 0. -/
def clearDone (s : State) : State := { s with status := s.status.clearDone }

/-- error(cause) (60_exceptions.md R117): what taking an exception is on this engine. "It changes no other state. It does
not stop, reset or redirect the engine". There is no return (R126). -/
def raiseError (c : Cause) (s : State) : State := { s with status := s.status.error c }

/-- A command turned away: error(cause), then rdata <- 0 (44_commands.md R105 and R106). -/
def reject (c : Cause) (s : State) : State := respond 0 (raiseError c s)

/-- model_fault(M_UNWRITTEN) (60_exceptions.md R123): sets the model-only bit and nothing else, "not a hardware action"
(00_scope.md R11). No response is given (log 8). -/
def modelFault (s : State) : State := { s with faulted := true }

/-- Every M word has been written since reset (R103). -/
def allWritten (s : State) : Bool := s.Mvalid.toList.all id

/-- LOAD (43_compression.md R92): a..h from H, W[0..15] from M, j <- 0. -/
def load (s : State) : State :=
  { s with work := Working.ofChain s.H, W := loadSchedule s.W s.M, j := 0 }

/-- START's STATUS writes: BUSY <- 1, DONE <- 0. -/
def setBusy (s : State) : State := { s with status := s.status.started }

/-- The ROUND step with counter j (R93): EXPAND, then the register update with the W[j] it may just have written, then
j <- j + 1. -/
def roundStep (j : Fin 64) (s : State) : State :=
  { s with
    W := expand s.W j
    work := s.work.round (K j) (expand s.W j)[j.val]
    j := s.j + 1 }

/-- The FINAL step (R94). -/
def finalStep (s : State) : State :=
  { s with H := feedForward s.H s.work, status := s.status.finished }

/-- The sequencer's choice (R91): ROUND when BUSY = 1 and j <= 63, FINAL when BUSY = 1 and j = 64, none otherwise. -/
def engineStepEnabled (s : State) : Option Instr :=
  if s.status.busy then
    if s.j.toNat ≤ 63 then some .round
    else if s.j.toNat = 64 then some .final
    else none
  else none

/-- Reset (70_reset_and_hazards.md R134): H = IV, STATUS = 0, every Mvalid bit 0, rsp_valid = 0; M, a..h, W and j
take free values (log 3). `faulted` "is not cleared by reset". The host's program is not the engine's to change. -/
def resetEngine (s : State) : State :=
  { s with
    H := IV
    M := Vector.ofFn fun i => Config.resetM s.resets i.val
    work :=
      { a := Config.resetReg s.resets 0, b := Config.resetReg s.resets 1, c := Config.resetReg s.resets 2
        d := Config.resetReg s.resets 3, e := Config.resetReg s.resets 4, f := Config.resetReg s.resets 5
        g := Config.resetReg s.resets 6, h := Config.resetReg s.resets 7 }
    W := Vector.ofFn fun i => Config.resetW s.resets i.val
    j := Config.resetJ s.resets
    status := Status.zero
    Mvalid := Vector.replicate 16 false
    rsp := none
    resets := s.resets + 1 }

end Sys2Proof.Machine
end

