-- ==== Sys2Proof/Machine/Command.lean ====
section
/-! DEFINITION. The meanings of the host commands (44_commands.md R98 to R104). "An illegal word gives rule R105, whatever
BUSY is. A legal word other than NOP or RDSTAT issued while BUSY = 1 gives rule R106. Otherwise the command's own rule
applies." The word's legality is the decoder's (30_encoding.md R55); an index outside 0..7 in a WRH or RDH term, which no
word decodes to, is ILLEGAL here too (R56(d), log 12). -/

namespace Sys2Proof.Machine

open Host (Outcome)

/-- NOP (R98): rdata <- 0; legal while busy. -/
def execNop (s : State) : Outcome State Fault Refusal := .next (respond 0 s)

/-- INIT (R99): H <- IV, DONE <- 0, rdata <- 0. -/
def execInit (s : State) : Outcome State Fault Refusal :=
  if s.status.busy then .next (reject .busyViolation s)
  else .next (respond 0 (clearDone (loadIV s)))

/-- WRM idx (R100): M[idx] <- wdata, Mvalid[idx] <- 1, rdata <- 0. Every index is legal. -/
def execWrm (idx : BitVec 4) (word : Word) (s : State) : Outcome State Fault Refusal :=
  if s.status.busy then .next (reject .busyViolation s)
  else .next (respond 0 (writeM (mIndex idx) word s))

/-- WRH idx (R101): H[idx] <- wdata, DONE <- 0, rdata <- 0. The illegal check comes before the busy check (R55). -/
def execWrh (idx : BitVec 4) (word : Word) (s : State) : Outcome State Fault Refusal :=
  match hIndex idx with
  | none => .next (reject .illegalCmd s)
  | some i =>
    if s.status.busy then .next (reject .busyViolation s)
    else .next (respond 0 (clearDone (writeH i word s)))

/-- RDH idx (R102): rdata <- H[idx]; while busy it does not return the old H. -/
def execRdh (idx : BitVec 4) (s : State) : Outcome State Fault Refusal :=
  match hIndex idx with
  | none => .next (reject .illegalCmd s)
  | some i =>
    if s.status.busy then .next (reject .busyViolation s)
    else .next (respond s.H[i.val] s)

/-- START (R103): a model fault when some M word is unwritten since reset, else LOAD, BUSY <- 1, DONE <- 0, rdata <- 0. -/
def execStart (s : State) : Outcome State Fault Refusal :=
  if s.status.busy then .next (reject .busyViolation s)
  else if allWritten s then .next (respond 0 (setBusy (load s)))
  else .next (modelFault s)

/-- RDSTAT (R104): rdata <- STATUS; legal while busy, no side effect. -/
def execRdstat (s : State) : Outcome State Fault Refusal := .next (respond s.status.word s)

end Sys2Proof.Machine
end

