-- ==== Sys2Proof/Machine/Engine.lean ====
section
/-! DEFINITION. The meanings of the engine steps ROUND and FINAL (43_compression.md R93, R94). The sequencer takes them only
where R91 enables them; elsewhere the spec gives them no effect and the meaning faults by name (log 9). -/

namespace Sys2Proof.Machine

open Host (Outcome)

/-- ROUND (R93), enabled when BUSY = 1 and j <= 63. -/
def execRound (s : State) : Outcome State Fault Refusal :=
  if s.status.busy then
    match roundIndex s.j with
    | some j => .next (roundStep j s)
    | none => .fault .engineStepNotEnabled
  else .fault .engineStepNotEnabled

/-- FINAL (R94), enabled when BUSY = 1 and j = 64. -/
def execFinal (s : State) : Outcome State Fault Refusal :=
  if s.status.busy ∧ s.j.toNat = 64 then .next (finalStep s)
  else .fault .engineStepNotEnabled

end Sys2Proof.Machine
end

