-- ==== Sys2Proof/Machine/Dispatch.lean ====
section
/-! DEFINITION. The dispatch: one arm per constructor of Instr. -/

namespace Sys2Proof.Machine

/-- What each instruction does. -/
def exec (i : Instr) (s : State) : Host.Outcome State Fault Refusal :=
  match i with
  | .nop => Sys2Proof.Machine.execNop s
  | .init => Sys2Proof.Machine.execInit s
  | .wrm idx word => Sys2Proof.Machine.execWrm idx word s
  | .wrh idx word => Sys2Proof.Machine.execWrh idx word s
  | .rdh idx => Sys2Proof.Machine.execRdh idx s
  | .start => Sys2Proof.Machine.execStart s
  | .rdstat => Sys2Proof.Machine.execRdstat s
  | .round => Sys2Proof.Machine.execRound s
  | .final => Sys2Proof.Machine.execFinal s

end Sys2Proof.Machine
end

