-- ==== Sys2Proof/Machine/HostAgent.lean ====
section
/-! DEFINITION. The host agent and the command port: `host_step` of 30_encoding.md R55, the delivery of the response, and
the host's own branch of `wait` (R62). -/

namespace Sys2Proof.Machine

open Host (Outcome)

/-- `host_step(cmd, wdata)` of R55: an ILLEGAL word records ILLEGAL_CMD and returns 0 (44_commands.md R105); any other word
runs its command's rule, which makes the busy check. -/
def issueCommand (cmd wdata : Word) (s : State) : Outcome State Fault Refusal :=
  match decode cmd wdata with
  | none => .next (reject .illegalCmd s)
  | some i => exec i s

/-- A command accepted on the port: the response of an earlier command is gone (R50). While faulted = 1 the model makes no
further progress (93_implementation_defined.md item 23, log 8). -/
def acceptCommand (cmd wdata : Word) (s : State) : Outcome State Fault Refusal :=
  if s.faulted then .fault .modelFaulted
  else issueCommand cmd wdata (clearRsp s)

/-- The host's program once its next item is taken: each command "is consumed when accepted" (10_state.md R29). -/
def dropItem (rest : List HostItem) (s : State) : State := { s with program := rest }

/-- The command a program item puts on the port; `wait` issues `rdstat`, (0x60000000, 0x00000000) (R62); a message boundary
issues none. -/
def HostItem.words : HostItem → Option (Word × Word)
  | .command cmd wdata => some (cmd, wdata)
  | .wait => some (0x60000000, 0)
  | .nextMessage => none

/-- Whether the host repeats the item: `L: rdstat; if rdata[0] = 1 then goto L` (R62). -/
def HostItem.repeats (item : HostItem) (rsp : Option Word) : Bool :=
  match item, rsp with
  | .wait, some v => v.getLsbD 0
  | .wait, none => false
  | .command _ _, _ => false
  | .nextMessage, _ => false

/-- The host takes the response of the command just accepted and goes on to the rest of its program, or stays at a `wait`
that read BUSY = 1. -/
def receive (item : HostItem) (s : State) : State :=
  { s with
    received := s.received ++ s.rsp.toList
    program := if item.repeats s.rsp then item :: s.program else s.program }

/-- One turn of the host: its next item's command, one atomic action (20_memory.md R38). A message boundary is the host's own
and touches no state of the engine. A host with nothing left to issue does nothing. -/
def hostTurn (s : State) : Outcome State Fault Refusal :=
  match s.program with
  | [] => .next s
  | item :: rest =>
    match item.words with
    | none => .next (dropItem rest s)
    | some (cmd, wdata) =>
      match acceptCommand cmd wdata (dropItem rest s) with
      | .next t => .next (receive item t)
      | .fault r => .fault r
      | .refused r => .refused r

end Sys2Proof.Machine
end

