-- ==== Sys2Proof/Machine/Sequencer.lean ====
section
/-! DEFINITION. The engine sequencer's turn (43_compression.md R91) and the choice of the agent that acts. -/

namespace Sys2Proof.Machine

open Host (Outcome)

/-- One turn of the engine: the enabled step, or nothing while BUSY = 0 ("engine idle"). BUSY = 1 with j > 64 "is
unreachable" and faults (log 9). -/
def engineTurn (s : State) : Outcome State Fault Refusal :=
  match engineStepEnabled s with
  | some i => exec i s
  | none => if s.status.busy then .fault .counterOutOfRange else .next s

/-- The agent that acts next: the head of `turns`; when no turn is listed the engine while BUSY = 1 (weak fairness, R96),
else the host (DESIGN CHOICE, log 5). -/
def nextTurn (s : State) : Turn :=
  match s.turns with
  | t :: _ => t
  | [] => if s.status.busy then .engine else .host

/-- The state once the turn is drawn. -/
def drawTurn (s : State) : State := { s with turns := s.turns.tail }

end Sys2Proof.Machine
end

