-- ==== Sys2Proof/Machine/Step.lean ====
section
/-! DEFINITION. One step of the machine: one atomic action of one agent (20_memory.md R42). -/

namespace Sys2Proof.Machine

/-- One agent's atomic action: a host command, an engine step, or reset (R42, 00_scope.md R12). -/
def act (t : Turn) (s : State) : Host.Outcome State Fault Refusal :=
  match t with
  | .host => hostTurn s
  | .engine => engineTurn s
  | .reset => .next (resetEngine s)

/-- One step: the agent whose turn it is acts. -/
def step (s : State) : Host.Outcome State Fault Refusal := act (nextTurn s) (drawTurn s)

/-- `s` with the command of a table word (log 11) as the host's next item and the host's turn next, so that the next step
issues exactly it: the program comes from outside the machine (log 10). -/
def State.withFetchWord (s : State) (nbits w : Nat) : State :=
  { s with
    program := .command (tableWords nbits w).1 (tableWords nbits w).2 :: s.program
    turns := .host :: s.turns }

end Sys2Proof.Machine
end

