-- ==== Sys2Proof/Machine/Assembler.lean ====
section
/-! DEFINITION. The assembler syntax of a host command program and its pseudo-instructions (30_encoding.md R61, R62). -/

namespace Sys2Proof.Machine

/-- One line of a command program. An index is a decimal number as written (R61). -/
inductive AsmLine where
  | nop
  | init
  | wrm (idx : Nat) (word : Word)
  | wrh (idx : Nat) (word : Word)
  | rdh (idx : Nat)
  | start
  | rdstat
  /-- `.cmd <cmdword>, <word>`: a raw command word and wdata -/
  | cmd (cmdword word : Word)
  | wrblock (block : Block)
  | rddigest
  | wait
  | compress (block : Block)
deriving DecidableEq, Repr

/-- The item of an encodable instruction. -/
def assembleInstr (i : Instr) : Option (List HostItem) :=
  (encode i).map fun p => [.command p.1 p.2]

/-- `wrm 0, w0 ... wrm 15, w15` in index order (R62). -/
def wrblockItems (block : Block) : List HostItem :=
  (List.finRange 16).map fun i => .command (commandWord 0x2 (BitVec.ofNat 4 i.val)) block[i.val]

/-- `rdh 0 ... rdh 7` in index order (R62). -/
def rddigestItems : List HostItem :=
  (List.finRange 8).map fun i => .command (commandWord 0x4 (BitVec.ofNat 4 i.val)) 0

/-- `start`: (0x50000000, 0x00000000). -/
def startItem : HostItem := .command (commandWord 0x5 0) 0

/-- `init`: (0x10000000, 0x00000000). -/
def initItem : HostItem := .command (commandWord 0x1 0) 0

/-- `compress w0, ..., w15`: `wrblock`, then `start`, then `wait` (R62). -/
def compressItems (block : Block) : List HostItem := wrblockItems block ++ [startItem, .wait]

/-- The items a line assembles to. `none` is an assembly error: "An idx outside the range the mnemonic admits is an assembly
error, not an illegal command: only `.cmd` can produce an illegal command word." (R61) -/
def assemble : AsmLine → Option (List HostItem)
  | .nop => assembleInstr .nop
  | .init => assembleInstr .init
  | .wrm idx word => if idx < 16 then assembleInstr (.wrm (BitVec.ofNat 4 idx) word) else none
  | .wrh idx word => if idx < 8 then assembleInstr (.wrh (BitVec.ofNat 4 idx) word) else none
  | .rdh idx => if idx < 8 then assembleInstr (.rdh (BitVec.ofNat 4 idx)) else none
  | .start => assembleInstr .start
  | .rdstat => assembleInstr .rdstat
  | .cmd cmdword word => some [.command cmdword word]
  | .wrblock block => some (wrblockItems block)
  | .rddigest => some rddigestItems
  | .wait => some [.wait]
  | .compress block => some (compressItems block)

/-- A whole program: the lines' items in order, or an assembly error. -/
def assembleProgram : List AsmLine → Option (List HostItem)
  | [] => some []
  | l :: ls =>
    match assemble l, assembleProgram ls with
    | some xs, some ys => some (xs ++ ys)
    | _, _ => none

end Sys2Proof.Machine
end

