-- ==== Sys2Proof/Machine/HostDuties.lean ====
section
/-! DEFINITION. The reference functions of the host's duties (45_host_protocol.md) and COMPRESS (43_compression.md R95). "The
rules here are reference functions over byte sequences. The model uses them to state claims, not as engine steps." -/

namespace Sys2Proof.Machine

/-- The schedule of a block precomputed as the source does, its first 16 + n words: `W[0..15] <- M[0..15]`, then W[16],
W[17], ... in order (R95). The words not yet computed are 0 here and are not read. -/
def scheduleUpTo (M : Block) : Nat → Schedule
  | 0 => loadSchedule (Vector.replicate 64 0) M
  | n + 1 => if h : 16 + n < 64 then expand (scheduleUpTo M n) ⟨16 + n, h⟩ else scheduleUpTo M n

/-- The whole message schedule W[0..63] of a block, "a function of M alone" (42_schedule.md R90). -/
def schedule (M : Block) : Schedule := scheduleUpTo M 48

/-- The first n rounds of R95's loop, from the working registers `r` over the schedule `W`. -/
def rounds (W : Schedule) (r : Working) : Nat → Working
  | 0 => r
  | n + 1 => if h : n < 64 then (rounds W r n).round (K ⟨n, h⟩) W[n] else rounds W r n

/-- COMPRESS(H, M) (R95). -/
def compress (H : Chain) (M : Block) : Chain :=
  feedForward H (rounds (schedule M) (Working.ofChain H) 64)

/-- The longest message the source defines a digest for: 2^61 - 1 bytes (00_scope.md R7). -/
def maxMessageBytes : Nat := 2 ^ 61 - 1

/-- BE64(v): 8 bytes, most significant first (R109). -/
def be64 (v : BitVec 64) : List Byte :=
  (List.range 8).map fun i => v.extractLsb' (56 - 8 * i) 8

/-- The number of padding bytes for a message of `len` bytes, the 0x80 byte and the length field included (R109). -/
def padCount (len : Nat) : Nat :=
  if 64 - len % 64 ≥ 9 then 64 - len % 64 else 128 - len % 64

/-- The padding of a message of `len` bytes: 0x80, zero bytes, BE64 of the bit length (R109). -/
def padding (len : Nat) : List Byte :=
  [0x80] ++ List.replicate (padCount len - 9) 0 ++ be64 (BitVec.ofNat 64 (8 * len))

/-- PAD(msg) (R109). A message of 2^61 bytes or more is refused, `none` (R111). -/
def pad (msg : List Byte) : Option (List Byte) :=
  if msg.length ≤ maxMessageBytes then some (msg ++ padding msg.length) else none

/-- The k-th 64-byte block of a byte sequence, P[64k .. 64k+63] (R114). -/
def blockBytes (p : List Byte) (k : Nat) : Vector Byte 64 := Vector.ofFn fun i => p.getD (64 * k + i.val) 0

/-- The big-endian word of four bytes, each zero-extended before it is shifted (R112). -/
def be32Word (b0 b1 b2 b3 : Byte) : Word :=
  (b0.setWidth 32 <<< 24) ||| (b1.setWidth 32 <<< 16) ||| (b2.setWidth 32 <<< 8) ||| b3.setWidth 32

/-- PARSE(block) (R112). -/
def parse (b : Vector Byte 64) : Block :=
  Vector.ofFn fun i =>
    be32Word (b[4 * i.val]'(by omega)) (b[4 * i.val + 1]'(by omega)) (b[4 * i.val + 2]'(by omega))
      (b[4 * i.val + 3]'(by omega))

/-- The blocks of a byte sequence whose length is a multiple of 64, parsed, in order (R114). -/
def parseBlocks (p : List Byte) : List Block :=
  (List.range (p.length / 64)).map fun k => parse (blockBytes p k)

/-- BE32(w) = [w[31:24], w[23:16], w[15:8], w[7:0]] (R113). -/
def be32 (w : Word) : List Byte :=
  [w.extractLsb' 24 8, w.extractLsb' 16 8, w.extractLsb' 8 8, w.extractLsb' 0 8]

/-- EMIT(H): the eight words in index order (R113). -/
def emit (H : Chain) : List Byte := H.toList.flatMap be32

/-- SHA256(msg) (R114), refused beyond the domain (R111). -/
def sha256 (msg : List Byte) : Option (List Byte) :=
  (pad msg).map fun p => emit ((parseBlocks p).foldl compress IV)

/-- The host command program that computes SHA256(msg) on the engine, from reset or after `init` (R114). -/
def sha256Program (msg : List Byte) : Option (List HostItem) :=
  (pad msg).map fun p => (parseBlocks p).flatMap compressItems ++ rddigestItems

/-- The host's non-engine digest state (R108): `buffer`, at most 63 bytes not yet absorbed into H, and `length`, the total
bytes absorbed so far, an unsigned 64-bit integer. -/
structure Stream where
  buffer : List Byte
  length : BitVec 64
deriving DecidableEq, Repr

/-- `new()`: buffer empty and length 0; on the engine it is `init` (R115). -/
def Stream.new : Stream := { buffer := [], length := 0 }

/-- `update(state, bytes)`: the stream after it and the full blocks it gives the engine, in order (R115). Refused when the
total length leaves the domain of R111 (log 17). -/
def Stream.update (st : Stream) (bytes : List Byte) : Option (Stream × List Block) :=
  let all := st.buffer ++ bytes
  if st.length.toNat + bytes.length ≤ maxMessageBytes then
    some
      ({ buffer := all.drop (64 * (all.length / 64))
         length := st.length + BitVec.ofNat 64 bytes.length },
       parseBlocks (all.take (64 * (all.length / 64))))
  else none

/-- `finalize(state)`: the one or two last blocks, the buffer padded with the full length (R115, R109). -/
def Stream.finalize (st : Stream) : List Block := parseBlocks (st.buffer ++ padding st.length.toNat)

/-- A sequence of updates: the stream after them and all the blocks they give, in order. -/
def Stream.updates (st : Stream) : List (List Byte) → Option (Stream × List Block)
  | [] => some (st, [])
  | bytes :: rest =>
    match st.update bytes with
    | none => none
    | some (st', blocks) =>
      match Stream.updates st' rest with
      | none => none
      | some (st'', blocks') => some (st'', blocks ++ blocks')

/-- The engine commands of a streamed hash: `init`, a `compress` for each block, then `rddigest` (R115). -/
def streamProgram (blocks : List Block) : List HostItem :=
  initItem :: blocks.flatMap compressItems ++ rddigestItems

end Sys2Proof.Machine
end

