-- ==== Sys2Proof/Machine/HostProtocol.lean ====
section
/-! DEFINITION. The host protocol, "the set of obligations a host must meet for its results to be those of" SHA256
(70_reset_and_hazards.md R138), as a monitor of what the host issues and reads in a run, and a check of a whole program before it
runs. -/

namespace Sys2Proof.Machine

/-- What the host does and sees, in order: a command issued, with the rdata it returned; the boundary between two messages; a
reset of the engine by the platform. -/
inductive HostEvent where
  | issued (cmd wdata rdata : Word)
  | nextMessage
  | reset
deriving DecidableEq, Repr

/-- The four clauses of R138. -/
inductive Clause where
  | p1
  | p2
  | p3
  | p4
deriving DecidableEq, Repr

/-- What of its past the protocol binds a host by. -/
structure Protocol where
  /-- P1: a START has been issued, and no RDSTAT since has returned BUSY = 0 -/
  waiting : Bool
  /-- P2: the M words written since reset -/
  written : Vector Bool 16
  /-- P3: the H words set since the current message began, by `init` or by `wrh` -/
  chained : Vector Bool 8
deriving DecidableEq, Repr

/-- After a reset no compression runs and no M word is written; "After reset H is already IV, so `init` is needed only between
messages" (R137). -/
def Protocol.afterReset : Protocol :=
  { waiting := false, written := Vector.replicate 16 false, chained := Vector.replicate 8 true }

/-- The protocol after a command and its response. A START counts as accepted when every M word is written, else it is the model
fault (44_commands.md R103); an RDSTAT whose response has bit 0, BUSY, clear ends P1. -/
def Protocol.afterCommand (p : Protocol) (i : Instr) (rdata : Word) : Protocol :=
  match i with
  | .nop => p
  | .init => { p with chained := Vector.replicate 8 true }
  | .wrm idx _ => { p with written := p.written.set (mIndex idx).val true }
  | .wrh idx _ =>
    match hIndex idx with
    | some k => { p with chained := p.chained.set k.val true }
    | none => p
  | .rdh _ => p
  | .start => { p with waiting := p.waiting || p.written.toList.all id }
  | .rdstat => { p with waiting := p.waiting && rdata.getLsbD 0 }
  | .round => p
  | .final => p

/-- The protocol after an event. An illegal word changes nothing. -/
def Protocol.next (p : Protocol) : HostEvent → Protocol
  | .issued cmd wdata rdata =>
    match decode cmd wdata with
    | some i => p.afterCommand i rdata
    | none => p
  | .nextMessage => { p with chained := Vector.replicate 8 false }
  | .reset => .afterReset

/-- Whether a command word breaks a clause of R138. P1: anything but NOP and RDSTAT, an illegal word included, between a START and
the first later RDSTAT that returns BUSY = 0. P2: a START with an M word unwritten since reset. P3: a START in a message for which
neither `init` nor all eight `wrh` were issued. P4: an illegal word. -/
def Protocol.wordBreaks (p : Protocol) (c : Clause) (cmd wdata : Word) : Bool :=
  match c with
  | .p1 => p.waiting && !(decode cmd wdata).any Instr.legalWhileBusy
  | .p2 => decode cmd wdata == some .start && !p.written.toList.all id
  | .p3 => decode cmd wdata == some .start && !p.chained.toList.all id
  | .p4 => decode cmd wdata == none

/-- Whether an event breaks a clause; a message boundary and a reset break none. -/
def Protocol.breaks (p : Protocol) (c : Clause) : HostEvent → Bool
  | .issued cmd wdata _ => p.wordBreaks c cmd wdata
  | .nextMessage => false
  | .reset => false

/-- No event of a history breaks the clause. -/
def Protocol.keeps (p : Protocol) (c : Clause) : List HostEvent → Bool
  | [] => true
  | e :: es => !p.breaks c e && (p.next e).keeps c es

/-- The protocol after a history. -/
def Protocol.after (p : Protocol) (es : List HostEvent) : Protocol := es.foldl Protocol.next p

/-- A history in which the host keeps the protocol: no event breaks any of P1 to P4 (R138). -/
def Protocol.follows (p : Protocol) (es : List HostEvent) : Prop := ∀ c : Clause, p.keeps c es = true

/-- A program that keeps the protocol whatever its responses, read before it runs. A `wait` ends with a response BUSY = 0 (30_encoding.md
R62); a bare RDSTAT may return BUSY = 1, so here it does not end P1, while in a history it does as soon as it returns BUSY = 0. -/
def Protocol.acceptsProgram (p : Protocol) : List HostItem → Bool
  | [] => true
  | .wait :: q => { p with waiting := false }.acceptsProgram q
  | .nextMessage :: q => (p.next .nextMessage).acceptsProgram q
  | .command cmd wdata :: q =>
    [Clause.p1, .p2, .p3, .p4].all (fun c => !p.wordBreaks c cmd wdata) && (p.next (.issued cmd wdata 1)).acceptsProgram q

end Sys2Proof.Machine
end

