-- ==== Sys2Proof/Machine/Pins.lean ====
section
/-! DEFINITION. One rising clock edge of a register-transfer implementation (30_encoding.md R50, R51; 60_exceptions.md R122;
70_reset_and_hazards.md R134). The model's step is the transaction level of Step.lean; this file says how transactions
appear on the pins. -/

namespace Sys2Proof.Machine

open Host (Outcome)

/-- The input pins at a rising edge (R50). -/
structure PinsIn where
  rst      : Bool
  cmdValid : Bool
  cmd      : Word
  wdata    : Word
deriving DecidableEq, Repr

/-- The output pins after an edge (R50). -/
structure PinsOut where
  rspValid : Bool
  rdata    : Word
deriving DecidableEq, Repr

/-- rsp_valid and rdata: "rdata holds the response of the command accepted at the previous rising edge", 0 when there is
none (R50). -/
def pinsOut (s : State) : PinsOut := { rspValid := s.rsp.isSome, rdata := s.rsp.getD 0 }

/-- The state when a command and an engine step share an edge: both are judged on the state before it and "write disjoint
state". The command part gives ERR, CAUSE, the response and everything the engine step does not write; the engine part gives
"a..h, W, j, H, BUSY and DONE" (R51). -/
def mergeEdge (command engine : State) : State :=
  { command with
    H := engine.H
    work := engine.work
    W := engine.W
    j := engine.j
    status :=
      { busy := engine.status.busy
        done := engine.status.done
        err := command.status.err
        cause := command.status.cause } }

/-- The port's part of an edge with rst = 0: the presented command, or rsp_valid = 0 where none is presented (R50). -/
def portEdge (p : PinsIn) (s : State) : Outcome State Fault Refusal :=
  if p.cmdValid then acceptCommand p.cmd p.wdata s else .next (clearRsp s)

/-- One rising edge. Reset wins over a command at the same edge, which is discarded (R122, R134). The engine steps at an
edge only where BUSY was 1 before it; `advance` says whether this implementation steps at this edge, always true in the
nominal one ("an implementation may take more cycles per round", R142, log 15). -/
def pinEdge (p : PinsIn) (advance : Bool) (s : State) : Outcome State Fault Refusal :=
  if p.rst then .next (resetEngine s)
  else if s.status.busy && advance then
    match portEdge p s, engineTurn s with
    | .next c, .next e => .next (mergeEdge c e)
    | .next _, .fault r => .fault r
    | .next _, .refused r => .refused r
    | .fault r, _ => .fault r
    | .refused r, _ => .refused r
  else portEdge p s

/-- The nominal implementation over a sequence of edges: one round per cycle (R142). -/
def nominalEdges : List PinsIn → State → Outcome State Fault Refusal
  | [], s => .next s
  | p :: ps, s =>
    match pinEdge p true s with
    | .next t => nominalEdges ps t
    | .fault r => .fault r
    | .refused r => .refused r

end Sys2Proof.Machine
end

