-- ==== Sys2Proof/Safety.lean ====
section
/-! DEFINITION. What claims are stated in terms of: runs, the invariants of the state, the state a run may not depend on, the
host protocol, fairness, and the successful end of a run. -/

namespace Sys2Proof.Machine

open Host (Outcome)

/-- n steps, stopping at the first fault or refusal. -/
def runSteps : Nat → State → Outcome State Fault Refusal
  | 0, s => .next s
  | n + 1, s =>
    match step s with
    | .next t => runSteps n t
    | .fault r => .fault r
    | .refused r => .refused r

/-- The first n actions of the infinite order of turns `order` (20_memory.md R42). -/
def runAlong (order : Nat → Turn) : Nat → State → Outcome State Fault Refusal
  | 0, s => .next s
  | n + 1, s =>
    match runAlong order n s with
    | .next t => act (order n) t
    | .fault r => .fault r
    | .refused r => .refused r

/-- The engine is given infinitely many turns; with an enabled step while BUSY = 1, "the enabled engine step is eventually
taken" (43_compression.md R96). -/
def Fair (order : Nat → Turn) : Prop := ∀ n, ∃ m, n ≤ m ∧ order m = .engine

/-- The command the host's next item puts on the port; none for a message boundary and for a host with nothing to issue. -/
def nextWords (s : State) : Option (Word × Word) :=
  match s.program with
  | [] => none
  | item :: _ => item.words

/-- The instruction the host's next command decodes to; none for an ILLEGAL word and where no command comes next. -/
def nextCommand (s : State) : Option Instr :=
  match nextWords s with
  | none => none
  | some (cmd, wdata) => decode cmd wdata

/-- The host's next command is an ILLEGAL word (30_encoding.md R56). -/
def nextIsIllegal (s : State) : Prop :=
  ∃ cmd wdata, nextWords s = some (cmd, wdata) ∧ decode cmd wdata = none

/-- The hidden registers a..h, W and j are the same (10_state.md R31). -/
def SameHidden (s t : State) : Prop := t.work = s.work ∧ t.W = s.W ∧ t.j = s.j

/-- M and Mvalid are the same. -/
def SameMessage (s t : State) : Prop := t.M = s.M ∧ t.Mvalid = s.Mvalid

/-- The model's own input fields and the model-only fault bit are the same. -/
def SameInputs (s t : State) : Prop :=
  t.program = s.program ∧ t.received = s.received ∧ t.turns = s.turns ∧ t.resets = s.resets ∧ t.faulted = s.faulted

/-- The instruction is turned away with the error `c` at `s`: error(c), then rdata <- 0, and nothing else (44_commands.md R105,
R106). -/
def TurnedAway (c : Cause) (i : Instr) (s : State) : Prop :=
  exec i s = .next { s with rsp := some 0, status := s.status.error c }

/-- The structural invariant of the state. -/
structure Inv (s : State) : Prop where
  /-- "holding values 0 to 64 while BUSY = 1" (R19) -/
  counter : s.status.busy = true → s.j.toNat ≤ 64
  /-- "BUSY = 1 and DONE = 1 never hold together" (R22) -/
  exclusive : ¬(s.status.busy = true ∧ s.status.done = true)
  /-- CAUSE is 0 exactly while no error has occurred since reset (R24) -/
  cause : s.status.cause = .none ↔ s.status.err = false
  /-- a running compression has read sixteen written words (R103) -/
  written : s.status.busy = true → ∀ i : Fin 16, s.Mvalid[i.val] = true

/-- While BUSY = 1 the working registers are those of R95's loop after j rounds from the current H and M, and the schedule
words written so far are the source's precomputed ones (42_schedule.md R89). -/
def InFlight (s : State) : Prop :=
  s.status.busy = true →
    s.j.toNat ≤ 64 ∧
    s.work = rounds (schedule s.M) (Working.ofChain s.H) s.j.toNat ∧
    ∀ k : Fin 64, k.val < 16 ∨ k.val < s.j.toNat → s.W[k.val] = (schedule s.M)[k.val]

/-- Equal but for the values the spec leaves unspecified: M words not written since reset (R16), a..h and j while idle (R17,
R19), and W entries this compression has not written (R18). -/
structure SameButUnspecified (s t : State) : Prop where
  H : s.H = t.H
  status : s.status = t.status
  Mvalid : s.Mvalid = t.Mvalid
  faulted : s.faulted = t.faulted
  rsp : s.rsp = t.rsp
  program : s.program = t.program
  received : s.received = t.received
  turns : s.turns = t.turns
  resets : s.resets = t.resets
  M : ∀ i : Fin 16, s.Mvalid[i.val] = true → s.M[i.val] = t.M[i.val]
  running : s.status.busy = true →
    s.work = t.work ∧ s.j = t.j ∧ ∀ k : Fin 64, k.val < 16 ∨ k.val < s.j.toNat → s.W[k.val] = t.W[k.val]

/-- Two outcomes correspond: related next states, or the same stop. -/
def SameOutcome (R : State → State → Prop) :
    Outcome State Fault Refusal → Outcome State Fault Refusal → Prop
  | .next s, .next t => R s t
  | .fault r, .fault q => r = q
  | .refused r, .refused q => r = q
  | _, _ => False

/-- What the host protocol sees of a step from `s` that answers `t`: nothing of an engine step. A command that gets no response (the
model fault) is seen with rdata 0. -/
def hostEvent (s t : State) : Option HostEvent :=
  match nextTurn s with
  | .engine => none
  | .reset => some .reset
  | .host =>
    match s.program with
    | [] => none
    | item :: _ =>
      match item.words with
      | none => some .nextMessage
      | some (cmd, wdata) => some (.issued cmd wdata (t.rsp.getD 0))

/-- The host's history over n steps, up to the first fault or refusal. -/
def hostEvents : Nat → State → List HostEvent
  | 0, _ => []
  | n + 1, s =>
    match step s with
    | .next t => (hostEvent s t).toList ++ hostEvents n t
    | .fault _ => []
    | .refused _ => []

/-- The protocol's record is right of the state: the M words it has as written are those written, and where no poll is owed no
compression runs. -/
def Protocol.Agrees (p : Protocol) (s : State) : Prop :=
  p.written = s.Mvalid ∧ (p.waiting = false → s.status.busy = false)

/-- A run ends successfully (R143): the host has issued everything and every `wait` has seen BUSY = 0, BUSY = 0, faulted = 0. -/
def State.finished (s : State) : Bool := s.program.isEmpty && !s.status.busy && !s.faulted

/-- The observation of a run: "the sequence of rdata words the host received, together with the final H and STATUS" (R143). -/
def State.observation (s : State) : List Word × Chain × Word := (s.received, s.H, s.status.word)

/-- A finished run of a protocol-following host: "A claim that a run is correct must also state ERR = 0" (R143). -/
def State.finishedCorrectly (s : State) : Bool := s.finished && !s.status.err

end Sys2Proof.Machine
end

