-- ==== Sys2Proof/Certificates/Slice0/Obligations.lean ====
section
/-! DEFINITION. The statements for the provers, from the numbered rules of spec/. -/

open Sys2Proof Sys2Proof.Machine
open Host (Outcome)

/-! Encoding (30_encoding.md) -/

/-- Every well-formed command, with every operand, is what the decoder reads from its own words (R52, R53, R55, R61). -/
def Obligations.DecodeUndoesEncode : Prop :=
  ∀ i : Instr, i.wellFormed = true → i.isCommand = true →
    ∃ cmd wdata, encode i = some (cmd, wdata) ∧ decode cmd wdata = some i

/-- Each legal word has one meaning: the instruction it decodes to is well formed, is a command, and encodes to that word. -/
def Obligations.EncodeUndoesDecode : Prop :=
  ∀ (cmd wdata : Word) (i : Instr), decode cmd wdata = some i →
    i.wellFormed = true ∧ i.isCommand = true ∧ encode i = some (cmd, if i.usesWdata then wdata else 0)

/-- The match and mask columns of R53: each mnemonic is decoded exactly from the words of its row, and a word is legal
exactly when it is a word of one of the seven rows. -/
def Obligations.LegalWordsAreTheTableRows : Prop :=
  ∀ cmd wdata : Word,
    (decode cmd wdata = some .nop ↔ cmd &&& 0xFFFFFFFF = 0x00000000) ∧
    (decode cmd wdata = some .init ↔ cmd &&& 0xFFFFFFFF = 0x10000000) ∧
    ((∃ idx, decode cmd wdata = some (.wrm idx wdata)) ↔ cmd &&& 0xFFFFFFF0 = 0x20000000) ∧
    ((∃ idx, decode cmd wdata = some (.wrh idx wdata)) ↔ cmd &&& 0xFFFFFFF8 = 0x30000000) ∧
    ((∃ idx, decode cmd wdata = some (.rdh idx)) ↔ cmd &&& 0xFFFFFFF8 = 0x40000000) ∧
    (decode cmd wdata = some .start ↔ cmd &&& 0xFFFFFFFF = 0x50000000) ∧
    (decode cmd wdata = some .rdstat ↔ cmd &&& 0xFFFFFFFF = 0x60000000) ∧
    ((decode cmd wdata).isSome = true ↔
      ∃! row : Fin 7,
        cmd &&& (#v[0xFFFFFFFF, 0xFFFFFFFF, 0xFFFFFFF0, 0xFFFFFFF8, 0xFFFFFFF8, 0xFFFFFFFF, 0xFFFFFFFF] : Vector Word 7)[row.val] =
          (#v[0x00000000, 0x10000000, 0x20000000, 0x30000000, 0x40000000, 0x50000000, 0x60000000] : Vector Word 7)[row.val])

/-- R56: the illegal words are those of its four kinds, and each is rejected as in R105, in every state. -/
def Obligations.IllegalWordsAreTheFourKinds : Prop :=
  ∀ cmd wdata : Word,
    (decode cmd wdata = none ↔
      (0x7 ≤ (opField cmd).toNat) ∨
      rsvField cmd ≠ 0 ∨
      (idxField cmd ≠ 0 ∧
        (opField cmd = 0x0 ∨ opField cmd = 0x1 ∨ opField cmd = 0x5 ∨ opField cmd = 0x6)) ∨
      ((idxField cmd).getLsbD 3 = true ∧ (opField cmd = 0x3 ∨ opField cmd = 0x4))) ∧
    (decode cmd wdata = none → ∀ s : State,
      issueCommand cmd wdata s = .next { s with rsp := some 0, status := s.status.error .illegalCmd })

/-- Words written out from R52 and R53 decode to what they stand for. A sanity statement. -/
def Obligations.SampleWordsDecode : Prop :=
  decode 0x00000000 0xDEADBEEF = some .nop ∧
  decode 0x10000000 0xDEADBEEF = some .init ∧
  decode 0x2000000F 0xDEADBEEF = some (.wrm 15 0xDEADBEEF) ∧
  decode 0x30000007 0xDEADBEEF = some (.wrh 7 0xDEADBEEF) ∧
  decode 0x40000003 0xDEADBEEF = some (.rdh 3) ∧
  decode 0x50000000 0xDEADBEEF = some .start ∧
  decode 0x60000000 0xDEADBEEF = some .rdstat ∧
  decode 0x30000008 0xDEADBEEF = none ∧
  decode 0x70000000 0xDEADBEEF = none ∧
  decode 0x00100000 0xDEADBEEF = none

/-- R57: a command that does not use wdata ignores it; every wdata gives the same effect and the same rdata. -/
def Obligations.UnusedWdataIsIgnored : Prop :=
  ∀ cmd wdata wdata' : Word,
    (∀ i, decode cmd wdata = some i → i.usesWdata = false) →
    decode cmd wdata' = decode cmd wdata ∧
    ∀ s : State, issueCommand cmd wdata' s = issueCommand cmd wdata s

/-! The step (30_encoding.md R49, R55, R62; 43_compression.md R91; 70_reset_and_hazards.md R134) -/

/-- When it is the host's turn and its next command decodes, the step runs exactly that instruction, with the command taken
from the program and the port's response cleared before it, and the response delivered to the host after it. The host's program
and received words are the model's fields (log 6, log 7). -/
def Obligations.StepRunsTheDecodedCommand : Prop :=
  ∀ (s : State) (cmd wdata : Word) (p : List HostItem) (ts : List Turn) (i : Instr),
    s.turns = .host :: ts → s.program = .command cmd wdata :: p → s.faulted = false →
    decode cmd wdata = some i →
    step s =
      match exec i { s with turns := ts, program := p, rsp := none } with
      | .next t => .next { t with received := t.received ++ t.rsp.toList }
      | .fault r => .fault r
      | .refused r => .refused r

/-- R105: an illegal word at the host's turn records ILLEGAL_CMD, whatever BUSY is, returns 0 and changes nothing else of the
engine. -/
def Obligations.StepRecordsAnIllegalWord : Prop :=
  ∀ (s : State) (cmd wdata : Word) (p : List HostItem) (ts : List Turn),
    s.turns = .host :: ts → s.program = .command cmd wdata :: p → s.faulted = false →
    decode cmd wdata = none →
    ∃ t, step s = .next t ∧
      t.rsp = some 0 ∧ t.received = s.received ++ [0] ∧ t.program = p ∧ t.turns = ts ∧
      t.status.err = true ∧ t.status.cause = (if s.status.err then s.status.cause else .illegalCmd) ∧
      t.status.busy = s.status.busy ∧ t.status.done = s.status.done ∧
      t.H = s.H ∧ SameMessage s t ∧ SameHidden s t ∧ t.faulted = false ∧ t.resets = s.resets

/-- R62: `wait` issues `rdstat`, and the host repeats it exactly while the response has bit 0, BUSY, set. The host's program and
received words are the model's fields (log 6). -/
def Obligations.WaitPollsWhileBusy : Prop :=
  ∀ (s : State) (p : List HostItem) (ts : List Turn),
    s.turns = .host :: ts → s.program = .wait :: p → s.faulted = false →
    step s = .next
      { s with
        turns := ts
        rsp := some s.status.word
        received := s.received ++ [s.status.word]
        program := if s.status.busy then .wait :: p else p }

/-- R91: an engine turn takes ROUND when BUSY = 1 and j <= 63, FINAL when BUSY = 1 and j = 64, and nothing while idle. That it
stops where BUSY = 1 and j > 64, which R91 calls unreachable, is the model's choice (log 9). -/
def Obligations.EngineTurnTakesTheEnabledStep : Prop :=
  ∀ (s : State) (ts : List Turn), s.turns = .engine :: ts →
    (s.status.busy = false → step s = .next { s with turns := ts }) ∧
    (s.status.busy = true → s.j.toNat ≤ 63 → step s = exec .round { s with turns := ts }) ∧
    (s.status.busy = true → s.j.toNat = 64 → step s = exec .final { s with turns := ts }) ∧
    (s.status.busy = true → 64 < s.j.toNat → step s = .fault .counterOutOfRange)

/-- R134: a reset turn, in any state, leaves H = IV, STATUS = 0, every Mvalid bit 0, no response, and faulted as it was. It says
nothing of M, a..h, W and j, which become unspecified. That the host's program and received words stay is the model's choice
(log 19). -/
def Obligations.ResetTurnEffect : Prop :=
  ∀ (s : State) (ts : List Turn), s.turns = .reset :: ts →
    ∃ t, step s = .next t ∧
      (∀ i : Fin 8, t.H[i.val] = IV[i.val]) ∧
      t.status.word = 0x00000000 ∧ t.status.busy = false ∧ t.status.done = false ∧ t.status.err = false ∧
      t.status.cause = .none ∧
      (∀ i : Fin 16, t.Mvalid[i.val] = false) ∧
      t.rsp = none ∧ t.faulted = s.faulted ∧
      t.program = s.program ∧ t.received = s.received ∧ t.turns = ts

/-- R133: with BUSY = 0 and no command to issue, a step that is no reset changes nothing but the list of turns. -/
def Obligations.IdleStateSurvives : Prop :=
  ∀ s : State, s.status.busy = false → s.program = [] → nextTurn s ≠ .reset →
    step s = .next { s with turns := s.turns.tail }

/-! The commands (44_commands.md) -/

/-- R98: NOP is the word 0x00000000 alone, every other word with its OP being illegal; it answers 0 in every state, busy or not,
and changes nothing. -/
def Obligations.NopCompletes : Prop :=
  (∀ cmd wdata : Word, decode cmd wdata = some .nop ↔ cmd = 0x00000000) ∧
  (∀ cmd wdata : Word, opField cmd = 0x0 → cmd ≠ 0x00000000 → decode cmd wdata = none) ∧
  ∀ s : State, ∃ t, exec .nop s = .next t ∧
    t.rsp = some 0 ∧ t.status = s.status ∧ t.H = s.H ∧ SameMessage s t ∧ SameHidden s t ∧ SameInputs s t

/-- R99: INIT is the word 0x10000000 alone, every other word with its OP being illegal; idle, it loads IV and clears DONE, and BUSY, ERR and CAUSE, M, Mvalid and the hidden
registers are unchanged; while busy it is turned away with BUSY_VIOLATION. -/
def Obligations.InitCompletes : Prop :=
  (∀ cmd wdata : Word, decode cmd wdata = some .init ↔ cmd = 0x10000000) ∧
  (∀ cmd wdata : Word, opField cmd = 0x1 → cmd ≠ 0x10000000 → decode cmd wdata = none) ∧
  (∀ s : State, s.status.busy = false → ∃ t, exec .init s = .next t ∧
    t.rsp = some 0 ∧ (∀ i : Fin 8, t.H[i.val] = IV[i.val]) ∧
    t.status.done = false ∧ t.status.busy = false ∧ t.status.err = s.status.err ∧ t.status.cause = s.status.cause ∧
    SameMessage s t ∧ SameHidden s t ∧ SameInputs s t) ∧
  ∀ s : State, s.status.busy = true → TurnedAway .busyViolation .init s

/-- R100: WRM idx is the word 0x20000000 or idx; idle, it writes M[idx] and sets Mvalid[idx], for each of the sixteen indices, and
every other entry, H, STATUS and the hidden registers are unchanged; while busy it is turned away with BUSY_VIOLATION. A word with
its OP and RSV other than 0 is illegal. -/
def Obligations.WrmCompletes : Prop :=
  (∀ cmd wdata : Word, opField cmd = 0x2 → rsvField cmd ≠ 0 → decode cmd wdata = none) ∧
  ∀ (idx : BitVec 4) (word : Word),
    decode (0x20000000 ||| idx.setWidth 32) word = some (.wrm idx word) ∧
    (∀ s : State, s.status.busy = false →
      ∃ t, exec (.wrm idx word) s = .next t ∧
        t.rsp = some 0 ∧
        (∀ i : Fin 16, t.M[i.val] = if i.val = idx.toNat then word else s.M[i.val]) ∧
        (∀ i : Fin 16, t.Mvalid[i.val] = if i.val = idx.toNat then true else s.Mvalid[i.val]) ∧
        t.status = s.status ∧ t.H = s.H ∧ SameHidden s t ∧ SameInputs s t) ∧
    ∀ s : State, s.status.busy = true → TurnedAway .busyViolation (.wrm idx word) s

/-- R101: WRH idx, idx 0..7, is the word 0x30000000 or idx; idle, it writes H[idx] and clears DONE, and every other H entry, M, the
other STATUS fields and the hidden registers are unchanged; while busy it is turned away with BUSY_VIOLATION. A word with its OP
and RSV other than 0 or with idx 8..15 is illegal, not a wrap. WRH of the words of a chaining value to all eight entries, in any
order, leaves H at that value. -/
def Obligations.WrhCompletes : Prop :=
  (∀ cmd wdata : Word, opField cmd = 0x3 → rsvField cmd ≠ 0 ∨ (idxField cmd).getLsbD 3 = true → decode cmd wdata = none) ∧
  (∀ (idx : BitVec 4) (word : Word),
    (idx.toNat < 8 →
      decode (0x30000000 ||| idx.setWidth 32) word = some (.wrh idx word) ∧
      (∀ s : State, s.status.busy = false →
        ∃ t, exec (.wrh idx word) s = .next t ∧
          t.rsp = some 0 ∧
          (∀ i : Fin 8, t.H[i.val] = if i.val = idx.toNat then word else s.H[i.val]) ∧
          t.status.done = false ∧ t.status.busy = false ∧ t.status.err = s.status.err ∧
          t.status.cause = s.status.cause ∧
          SameMessage s t ∧ SameHidden s t ∧ SameInputs s t) ∧
      ∀ s : State, s.status.busy = true → TurnedAway .busyViolation (.wrh idx word) s) ∧
    (8 ≤ idx.toNat → decode (0x30000000 ||| idx.setWidth 32) word = none)) ∧
  ∀ (s : State) (target : Chain) (order : List (Fin 8)), s.status.busy = false → (∀ i : Fin 8, i ∈ order) →
    ∃ t, (order.foldl (fun o i =>
        match o with
        | .next u => exec (.wrh (BitVec.ofNat 4 i.val) target[i.val]) u
        | .fault r => .fault r
        | .refused r => .refused r) (Outcome.next s : Outcome State Fault Refusal)) = .next t ∧
      t.H = target ∧ t.status.busy = false ∧ t.status.done = false ∧ SameMessage s t ∧ SameHidden s t ∧ SameInputs s t

/-- R102: RDH idx, idx 0..7, is the word 0x40000000 or idx; idle, it returns H[idx] and has no side effect; while busy it is turned
away with BUSY_VIOLATION and returns 0. A word with its OP and RSV other than 0 or with idx 8..15 is illegal. -/
def Obligations.RdhCompletes : Prop :=
  (∀ cmd wdata : Word, opField cmd = 0x4 → rsvField cmd ≠ 0 ∨ (idxField cmd).getLsbD 3 = true → decode cmd wdata = none) ∧
  ∀ (idx : BitVec 4) (wdata : Word),
    (∀ h : idx.toNat < 8,
      decode (0x40000000 ||| idx.setWidth 32) wdata = some (.rdh idx) ∧
      (∀ s : State, s.status.busy = false →
        ∃ t, exec (.rdh idx) s = .next t ∧
          t.rsp = some s.H[idx.toNat] ∧ t.H = s.H ∧ t.status = s.status ∧
          SameMessage s t ∧ SameHidden s t ∧ SameInputs s t) ∧
      ∀ s : State, s.status.busy = true → TurnedAway .busyViolation (.rdh idx) s) ∧
    (8 ≤ idx.toNat → decode (0x40000000 ||| idx.setWidth 32) wdata = none)

/-- R103 with LOAD (43_compression.md R92): START is the word 0x50000000 alone, every other word with its OP being illegal; idle, with every M word written, it loads a..h from H
and W[0..15] from M, sets j = 0 and BUSY and clears DONE, and H, M, W[16..63], ERR and CAUSE are unchanged. With an M word unwritten
it is a model fault; while busy it is turned away with BUSY_VIOLATION. -/
def Obligations.StartCompletes : Prop :=
  (∀ cmd wdata : Word, decode cmd wdata = some .start ↔ cmd = 0x50000000) ∧
  (∀ cmd wdata : Word, opField cmd = 0x5 → cmd ≠ 0x50000000 → decode cmd wdata = none) ∧
  (∀ s : State, s.status.busy = false → (∀ i : Fin 16, s.Mvalid[i.val] = true) →
    ∃ t, exec .start s = .next t ∧
      t.rsp = some 0 ∧
      (∀ i : Fin 8, t.work.reg i = s.H[i.val]) ∧
      (∀ k : Fin 64, t.W[k.val] = if h : k.val < 16 then s.M[k.val] else s.W[k.val]) ∧
      t.j = 0 ∧ t.status.busy = true ∧ t.status.done = false ∧
      t.status.err = s.status.err ∧ t.status.cause = s.status.cause ∧
      t.H = s.H ∧ SameMessage s t ∧ SameInputs s t) ∧
  (∀ s : State, s.status.busy = false → ¬(∀ i : Fin 16, s.Mvalid[i.val] = true) →
    ∃ t, exec .start s = .next t ∧ t.faulted = true) ∧
  ∀ s : State, s.status.busy = true → TurnedAway .busyViolation .start s

/-- R123: START, idle, with some M word unwritten since reset, sets faulted. That nothing else changes and no response is given
is the model's reading (log 8). -/
def Obligations.StartOnUnwrittenWordsFaultsTheModel : Prop :=
  ∀ (s : State) (i : Fin 16), s.status.busy = false → s.Mvalid[i.val] = false →
    exec .start s = .next { s with faulted := true }

/-- R104: RDSTAT is the word 0x60000000 alone, every other word with its OP being illegal; it returns STATUS in every state, busy or not, and has no side effect. -/
def Obligations.RdstatCompletes : Prop :=
  (∀ cmd wdata : Word, decode cmd wdata = some .rdstat ↔ cmd = 0x60000000) ∧
  (∀ cmd wdata : Word, opField cmd = 0x6 → cmd ≠ 0x60000000 → decode cmd wdata = none) ∧
  ∀ s : State, ∃ t, exec .rdstat s = .next t ∧
    t.rsp = some s.status.word ∧ t.status = s.status ∧ t.H = s.H ∧
    SameMessage s t ∧ SameHidden s t ∧ SameInputs s t

/-- R106: INIT, WRM, WRH, RDH and START while BUSY = 1 record BUSY_VIOLATION, return 0 and have no effect of their own. -/
def Obligations.BusyViolationsAreDropped : Prop :=
  ∀ (s : State) (i : Instr), s.status.busy = true →
    (i = .init ∨ (∃ idx word, i = .wrm idx word) ∨
      (∃ (idx : BitVec 4) (word : Word), idx.toNat < 8 ∧ i = .wrh idx word) ∨
      (∃ idx : BitVec 4, idx.toNat < 8 ∧ i = .rdh idx) ∨ i = .start) →
    ∃ t, exec i s = .next t ∧
      t.rsp = some 0 ∧ t.status.err = true ∧
      t.status.cause = (if s.status.err then s.status.cause else .busyViolation) ∧
      t.status.busy = true ∧ t.status.done = s.status.done ∧
      t.H = s.H ∧ SameMessage s t ∧ SameHidden s t ∧ SameInputs s t

/-- R56(d) with R121: a WRH or RDH term with an index of 8..15, which no word decodes to, has the effect of an illegal command,
busy or not (log 12). -/
def Obligations.IndexBeyondHIsIllegal : Prop :=
  ∀ (s : State) (idx : BitVec 4) (word : Word), 8 ≤ idx.toNat →
    exec (.wrh idx word) s = .next { s with rsp := some 0, status := s.status.error .illegalCmd } ∧
    exec (.rdh idx) s = .next { s with rsp := some 0, status := s.status.error .illegalCmd }

/-- R58: the response of every command that the port accepts and that raises no model fault. -/
def Obligations.ResponseOfEveryCommand : Prop :=
  ∀ (cmd wdata : Word) (s t : State), s.faulted = false → issueCommand cmd wdata s = .next t → t.faulted = false →
    (∀ (idx : BitVec 4) (h : idx.toNat < 8), decode cmd wdata = some (.rdh idx) → s.status.busy = false →
      t.rsp = some s.H[idx.toNat]) ∧
    (decode cmd wdata = some .rdstat → t.rsp = some s.status.word) ∧
    (decode cmd wdata ≠ some .rdstat →
      (s.status.busy = true ∨ ∀ idx, decode cmd wdata ≠ some (.rdh idx)) → t.rsp = some 0)

/-- R39: WRM, WRH and INIT repeated leave the state of one; RDH and RDSTAT repeated return the same word. -/
def Obligations.RepeatedAccessesAreIdempotent : Prop :=
  ∀ (s t : State) (i : Instr),
    ((∃ idx word, i = .wrm idx word) ∨ (∃ idx word, i = .wrh idx word) ∨ i = .init ∨
      (∃ idx, i = .rdh idx) ∨ i = .rdstat) →
    s.status.busy = false → i.wellFormed = true → exec i s = .next t → exec i t = .next t

/-! The engine steps (43_compression.md) -/

/-- R93: ROUND with counter j. EXPAND writes W[j] for j >= 16 (42_schedule.md R87) and no other word; a..h take the tuple of the
rule, with the W[j] just written; j goes up by one. H, M and STATUS are unchanged. -/
def Obligations.RoundCompletes : Prop :=
  ∀ (s : State) (hj : s.j.toNat < 64), s.status.busy = true →
    ∃ t, exec .round s = .next t ∧
      (∀ k : Fin 64, k.val ≠ s.j.toNat → t.W[k.val] = s.W[k.val]) ∧
      (s.j.toNat < 16 → t.W = s.W) ∧
      (∀ h : 16 ≤ s.j.toNat, t.W[s.j.toNat] =
        SUM [s.W[s.j.toNat - 16], SSIG0 s.W[s.j.toNat - 15], s.W[s.j.toNat - 7], SSIG1 s.W[s.j.toNat - 2]]) ∧
      t.work.a =
        ADD32
          (SUM [s.work.h, BSIG1 s.work.e, CH s.work.e s.work.f s.work.g, K ⟨s.j.toNat, hj⟩, t.W[s.j.toNat]])
          (ADD32 (BSIG0 s.work.a) (MAJ s.work.a s.work.b s.work.c)) ∧
      t.work.b = s.work.a ∧ t.work.c = s.work.b ∧ t.work.d = s.work.c ∧
      t.work.e =
        ADD32 s.work.d
          (SUM [s.work.h, BSIG1 s.work.e, CH s.work.e s.work.f s.work.g, K ⟨s.j.toNat, hj⟩, t.W[s.j.toNat]]) ∧
      t.work.f = s.work.e ∧ t.work.g = s.work.f ∧ t.work.h = s.work.g ∧
      t.j.toNat = s.j.toNat + 1 ∧
      t.status = s.status ∧ t.H = s.H ∧ t.rsp = s.rsp ∧ SameMessage s t ∧ SameInputs s t

/-- R94: FINAL adds the working registers into H, clears BUSY and sets DONE; ERR, CAUSE, M, a..h, W and j are unchanged;
after it no engine step is enabled. -/
def Obligations.FinalCompletes : Prop :=
  ∀ s : State, s.status.busy = true → s.j.toNat = 64 →
    ∃ t, exec .final s = .next t ∧
      (∀ i : Fin 8, t.H[i.val].toNat = (s.H[i.val].toNat + (s.work.reg i).toNat) % 2 ^ 32) ∧
      t.status.busy = false ∧ t.status.done = true ∧
      t.status.err = s.status.err ∧ t.status.cause = s.status.cause ∧
      t.rsp = s.rsp ∧ SameMessage s t ∧ SameHidden s t ∧ SameInputs s t ∧
      engineStepEnabled t = none

/-- R97: from every state that meets the structural invariant an engine turn answers a next state; the step waits for nothing and
depends on no value of the host's: with another program, another M and another response it does the same. -/
def Obligations.EngineNeverStopsOrWaits : Prop :=
  ∀ s : State, Inv s → nextTurn s = .engine →
    ∃ t, step s = .next t ∧
      (s.status.busy = true → engineStepEnabled s = some .round ∨ engineStepEnabled s = some .final) ∧
      ∀ (program : List HostItem) (M : Block) (rsp : Option Word),
        step { s with program := program, M := M, rsp := rsp } = .next { t with program := program, M := M, rsp := rsp }

/-- Where R91 does not enable them, ROUND and FINAL have no effect to give and stop by name: the model's choice (log 9). -/
def Obligations.EngineStepsStopWhereNotEnabled : Prop :=
  ∀ s : State,
    (¬(s.status.busy = true ∧ s.j.toNat ≤ 63) → exec .round s = .fault .engineStepNotEnabled) ∧
    (¬(s.status.busy = true ∧ s.j.toNat = 64) → exec .final s = .fault .engineStepNotEnabled)

/-! STATUS and the errors (10_state.md R20 to R25, 60_exceptions.md R117 to R121) -/

/-- R25: STATUS read as a word: BUSY, DONE and ERR in bits 0, 1 and 2, the code of CAUSE in bits 5:4, every other bit 0; and the
rule's worked example, a busy violation during a compression and after it. -/
def Obligations.StatusWordLayout : Prop :=
  ((Status.zero.started.error .busyViolation).word = 0x00000025 ∧
    (Status.zero.started.error .busyViolation).finished.word = 0x00000026) ∧
  ∀ st : Status,
    st.word.getLsbD 0 = st.busy ∧ st.word.getLsbD 1 = st.done ∧ st.word.getLsbD 2 = st.err ∧
    st.word.getLsbD 3 = false ∧
    (st.word.extractLsb' 4 2).toNat =
      (match st.cause with
      | .none => 0
      | .illegalCmd => 1
      | .busyViolation => 2) ∧
    ∀ n, 6 ≤ n → st.word.getLsbD n = false

/-- R21: BUSY is set only by an accepted START and cleared only by FINAL and by reset; while it is 1 a step is enabled, and a
command other than NOP and RDSTAT is turned away. -/
def Obligations.BusyIsStartToFinal : Prop :=
  ∀ s t : State, step s = .next t →
    (s.status.busy = false → t.status.busy = true → nextTurn s = .host ∧ nextCommand s = some .start) ∧
    (s.status.busy = true → t.status.busy = false →
      nextTurn s = .reset ∨ (nextTurn s = .engine ∧ engineStepEnabled s = some .final)) ∧
    (s.status.busy = true → Inv s → engineStepEnabled s ≠ none) ∧
    (s.status.busy = true → nextTurn s = .host → ∀ i, nextCommand s = some i → i ≠ .nop → i ≠ .rdstat →
      t.status.err = true ∧ t.rsp = some 0)

/-- R22: DONE is set only by FINAL and cleared by START, INIT, WRH and reset; BUSY and DONE are not made 1 together. -/
def Obligations.DoneIsFinalToNextStart : Prop :=
  ∀ s t : State, step s = .next t →
    (s.status.done = false → t.status.done = true → nextTurn s = .engine ∧ engineStepEnabled s = some .final) ∧
    (nextTurn s = .engine → engineStepEnabled s = some .final → t.status.done = true) ∧
    (s.status.done = true → t.status.done = false →
      nextTurn s = .reset ∨
      (nextTurn s = .host ∧ s.status.busy = false ∧
        (nextCommand s = some .start ∨ nextCommand s = some .init ∨
          ∃ idx word, nextCommand s = some (.wrh idx word)))) ∧
    (nextTurn s = .reset → t.status.done = false) ∧
    (nextTurn s = .host → s.status.busy = false → t.faulted = false →
      (nextCommand s = some .start ∨ nextCommand s = some .init ∨
        ∃ idx word, nextCommand s = some (.wrh idx word)) → t.status.done = false) ∧
    (¬(s.status.busy = true ∧ s.status.done = true) → ¬(t.status.busy = true ∧ t.status.done = true))

/-- R23, R24, R119: no step but reset clears ERR or changes the CAUSE of the first error; CAUSE changes only as ERR is first set;
reset clears both. -/
def Obligations.FirstErrorIsKeptUntilReset : Prop :=
  ∀ s t : State, step s = .next t →
    (nextTurn s ≠ .reset → s.status.err = true → t.status.err = true ∧ t.status.cause = s.status.cause) ∧
    (nextTurn s ≠ .reset → t.status.err = false → t.status.cause = s.status.cause) ∧
    (nextTurn s = .reset → t.status.err = false ∧ t.status.cause = .none)

/-- R118, R120, R121: ERR goes from 0 to 1 exactly at the host's turn with an ILLEGAL word, whatever BUSY is, or with INIT, WRM,
WRH, RDH or START while BUSY = 1, with the cause of that row; the engine and reset raise no error. -/
def Obligations.ErrorsComeFromHostMisuseOnly : Prop :=
  ∀ s t : State, step s = .next t → s.status.err = false →
    (t.status.err = true ↔
      nextTurn s = .host ∧
      (nextIsIllegal s ∨ (s.status.busy = true ∧ ∃ i, nextCommand s = some i ∧ i.legalWhileBusy = false))) ∧
    (t.status.err = true → nextIsIllegal s → t.status.cause = .illegalCmd) ∧
    (t.status.err = true → ¬ nextIsIllegal s → t.status.cause = .busyViolation)

/-! Who writes what (10_state.md R15 to R19, R27) -/

/-- R15: H changes only at INIT and WRH, both accepted only while idle, at FINAL, and at reset. -/
def Obligations.ChainIsWrittenOnlyByInitWrhFinal : Prop :=
  ∀ s t : State, step s = .next t → t.H ≠ s.H →
    nextTurn s = .reset ∨
    (nextTurn s = .engine ∧ engineStepEnabled s = some .final) ∨
    (nextTurn s = .host ∧ s.status.busy = false ∧
      (nextCommand s = some .init ∨ ∃ idx word, nextCommand s = some (.wrh idx word)))

/-- R16, R27: M and Mvalid change only at an accepted WRM, one entry, whose bit becomes 1, and at reset; faulted, once 1, stays 1,
across reset too, and becomes 1 only at a START with an unwritten word. -/
def Obligations.MessageIsWrittenOnlyByWrm : Prop :=
  ∀ s t : State, step s = .next t →
    (¬ SameMessage s t →
      nextTurn s = .reset ∨
      (nextTurn s = .host ∧ s.status.busy = false ∧
        ∃ (idx : BitVec 4) (word : Word), nextCommand s = some (.wrm idx word) ∧
          t.M = s.M.set idx.toNat word ∧ t.Mvalid = s.Mvalid.set idx.toNat true)) ∧
    (s.faulted = true → t.faulted = true) ∧
    (s.faulted = false → t.faulted = true →
      nextTurn s = .host ∧ nextCommand s = some .start ∧ s.status.busy = false ∧
      ∃ i : Fin 16, s.Mvalid[i.val] = false)

/-- R17, R18, R19: the hidden registers change only at an accepted START, at a ROUND and at reset. -/
def Obligations.HiddenRegistersAreWrittenOnlyByTheEngine : Prop :=
  ∀ s t : State, step s = .next t → ¬ SameHidden s t →
    nextTurn s = .reset ∨
    (nextTurn s = .engine ∧ engineStepEnabled s = some .round) ∨
    (nextTurn s = .host ∧ s.status.busy = false ∧ nextCommand s = some .start)

/-! Reset and invariants -/

/-- R136: right after reset the engine is idle with H = IV and STATUS = 0, no M word counts as written, and the model is not
faulted. It says nothing of the values the model chose for M, a..h, W and j (log 1, log 2). -/
def Obligations.StateAfterReset : Prop :=
  (∀ i : Fin 8, State.reset.H[i.val] = IV[i.val]) ∧
  State.reset.H[0] = 0x6A09E667 ∧ State.reset.H[7] = 0x5BE0CD19 ∧
  State.reset.status.word = 0x00000000 ∧ State.reset.status.busy = false ∧
  (∀ i : Fin 16, State.reset.Mvalid[i.val] = false) ∧
  State.reset.rsp = none ∧ State.reset.faulted = false ∧
  engineStepEnabled State.reset = none

/-- The invariants hold right after reset. -/
def Obligations.InvariantsHoldAtReset : Prop := Inv State.reset ∧ InFlight State.reset

/-- Every step of every agent, with any program and any turn, keeps the structural invariant (R19, R22, R24, R103). -/
def Obligations.EveryStepKeepsInv : Prop :=
  ∀ s t : State, Inv s → step s = .next t → Inv t

/-- Every step keeps the functional invariant of a running compression: whatever the host does meanwhile, a..h are those of
R95's loop after j rounds and W[16..] are the source's precomputed words (R89). -/
def Obligations.EveryStepKeepsInFlight : Prop :=
  ∀ s t : State, InFlight s → step s = .next t → InFlight t

/-- R95: from any idle state with every M word written, an accepted START followed by 65 engine steps leaves H = COMPRESS of H and
M before it, whatever commands the host issues in between and whatever words they are; the last engine step clears BUSY and
sets DONE, and M is unchanged. -/
def Obligations.CompressionSurvivesAnyInterleaving : Prop :=
  ∀ (s u : State) (program : List HostItem) (ts : List Turn),
    s.status.busy = false → s.faulted = false → (∀ i : Fin 16, s.Mvalid[i.val] = true) →
    exec .start s = .next u →
    Turn.reset ∉ ts → ts.count .engine = 64 →
    ∃ t, runSteps (ts.length + 1) { u with program := program, turns := ts ++ [.engine] } = .next t ∧
      t.H = compress s.H s.M ∧ t.status.busy = false ∧ t.status.done = true ∧
      SameMessage s t ∧ t.faulted = false

/-- R96: under a fair order of turns without reset, a running compression of an unfaulted machine finishes, whatever the host
issues, and no step faults on the way. -/
def Obligations.FairRunsFinishTheCompression : Prop :=
  ∀ (order : Nat → Turn) (s : State), Fair order → (∀ n, order n ≠ .reset) →
    Inv s → s.faulted = false → s.status.busy = true →
    ∃ n t, runAlong order n s = .next t ∧ t.status.busy = false ∧ t.status.done = true

/-- R14, R31: the values the spec leaves unspecified are unobservable. Two states that differ only in them step to states that
differ only in them, with the same response and the same stop. No value chosen for State.reset (log 1, log 2) can be seen. -/
def Obligations.UnspecifiedValuesAreUnobservable : Prop :=
  ∀ s t : State, SameButUnspecified s t → SameOutcome SameButUnspecified (step s) (step t)

/-- R138: a host that keeps P1 to P4 along a run is never turned away: no step of the run stops, and it ends with ERR = 0 and
faulted = 0, resets of the platform included. And a program the check of `acceptsProgram` accepts keeps P1 to P4 along every run without
reset, whatever the order of turns. What counts as a message is the host's own knowledge, its boundaries the marks in its program
(log 21). -/
def Obligations.ProtocolHostsNeverSeeAnError : Prop :=
  ∀ (s : State) (p : Protocol) (n : Nat), Inv s → p.Agrees s → s.status.err = false → s.faulted = false →
    (p.follows (hostEvents n s) →
      ∃ t, runSteps n s = .next t ∧ t.status.err = false ∧ t.faulted = false ∧ (p.after (hostEvents n s)).Agrees t) ∧
    (Turn.reset ∉ s.turns → p.acceptsProgram s.program = true → p.follows (hostEvents n s))

/-- R43: for a host that keeps P1, two runs from the same state, under any two orders of turns without reset, that both come to a
successful end have the same final H, M and STATUS. -/
def Obligations.FinishedRunsAgreeOnTheResult : Prop :=
  ∀ (s t t' : State) (p : Protocol) (ts ts' : List Turn) (n n' : Nat),
    Inv s → p.Agrees s → Turn.reset ∉ ts → Turn.reset ∉ ts' →
    p.keeps .p1 (hostEvents n { s with turns := ts }) = true → p.keeps .p1 (hostEvents n' { s with turns := ts' }) = true →
    runSteps n { s with turns := ts } = .next t → runSteps n' { s with turns := ts' } = .next t' →
    t.finished = true → t'.finished = true →
    t.H = t'.H ∧ SameMessage t t' ∧ t.status = t'.status

/-! The datapath (40_datapath.md) and the schedule (42_schedule.md) -/

/-- R64: ROTR(x, n) = (x >> n) or (x << (32 - n)), and ROTR(x, n)[i] = x[(i + n) mod 32], for 1 <= n <= 31 and as the identity for
n = 0 and n = 32. -/
def Obligations.RotrMovesEveryBit : Prop :=
  ∀ (x : Word) (n i : Nat), n ≤ 32 → i < 32 → ROTR x n = (x >>> n ||| x <<< (32 - n)) ∧ (ROTR x n).getLsbD i = x.getLsbD ((i + n) % 32)

/-- R66 to R69 by bits, with R65's zero fill: each sigma is the xor of three bits of its operand, the shifted one 0 where the
shift leaves the word. -/
def Obligations.SigmaBits : Prop :=
  ∀ (x : Word) (i : Nat), i < 32 →
    (SSIG0 x).getLsbD i =
      ((x.getLsbD ((i + 7) % 32) ^^ x.getLsbD ((i + 18) % 32)) ^^ (if i ≤ 28 then x.getLsbD (i + 3) else false)) ∧
    (SSIG1 x).getLsbD i =
      ((x.getLsbD ((i + 17) % 32) ^^ x.getLsbD ((i + 19) % 32)) ^^ (if i ≤ 21 then x.getLsbD (i + 10) else false)) ∧
    (BSIG1 x).getLsbD i =
      ((x.getLsbD ((i + 6) % 32) ^^ x.getLsbD ((i + 11) % 32)) ^^ x.getLsbD ((i + 25) % 32)) ∧
    (BSIG0 x).getLsbD i =
      ((x.getLsbD ((i + 2) % 32) ^^ x.getLsbD ((i + 13) % 32)) ^^ x.getLsbD ((i + 22) % 32))

/-- R70, R71: bit by bit, CH selects f where e is 1 and g where e is 0, and MAJ is 1 exactly where at least two of its operands
are 1. -/
def Obligations.ChooseAndMajorityByBits : Prop :=
  ∀ (x y z : Word) (i : Nat),
    (CH x y z).getLsbD i = (if x.getLsbD i then y.getLsbD i else z.getLsbD i) ∧
    ((MAJ x y z).getLsbD i = true ↔
      2 ≤ ((if x.getLsbD i then 1 else 0) + (if y.getLsbD i then 1 else 0) + (if z.getLsbD i then 1 else 0) : Nat))

/-- R73: the shape of an adder tree is not observable: any order of the operands and any grouping into subtrees joined by ADD32
give the integer sum modulo 2^32. -/
def Obligations.AdderTreeShapeIsUnobservable : Prop :=
  (∀ xs : List Word, (SUM xs).toNat = (xs.map BitVec.toNat).sum % 2 ^ 32) ∧
  (∀ xs ys : List Word, xs.Perm ys → SUM xs = SUM ys) ∧
  (∀ xs ys : List Word, SUM (xs ++ ys) = ADD32 (SUM xs) (SUM ys))

/-- R76: a_next = ADD32(T1, T2) and e_next = ADD32(d, T1); and a_next is SUM7 and e_next is SUM6 of the round's operands, so the
T1 sum may be shared. -/
def Obligations.RoundUpdatesAreSingleSums : Prop :=
  ∀ (r : Working) (k w : Word),
    (r.round k w).a = SUM [r.h, BSIG1 r.e, CH r.e r.f r.g, k, w, BSIG0 r.a, MAJ r.a r.b r.c] ∧
    (r.round k w).e = SUM [r.d, r.h, BSIG1 r.e, CH r.e r.f r.g, k, w] ∧
    (r.round k w).a = ADD32 (T1 r k w) (T2 r) ∧ (r.round k w).e = ADD32 r.d (T1 r k w)

/-- R86, R87, R90: the schedule COMPRESS computes starts with the block and meets the recurrence at every j from 16 to 63. -/
def Obligations.ScheduleMeetsItsRecurrence : Prop :=
  ∀ M : Block,
    (∀ i : Fin 16, (schedule M)[i.val] = M[i.val]) ∧
    ∀ (j : Nat) (h : 16 ≤ j) (h' : j < 64),
      (schedule M)[j] =
        SUM [(schedule M)[j - 16], SSIG0 (schedule M)[j - 15], (schedule M)[j - 7], SSIG1 (schedule M)[j - 2]]

/-! The host's duties (45_host_protocol.md) -/

/-- R110: every padded message is a nonzero multiple of 64 bytes and 9 to 72 bytes longer than the message, which it begins with. -/
def Obligations.PaddedLength : Prop :=
  ∀ msg : List Byte, msg.length < 2 ^ 61 →
    ∃ p, pad msg = some p ∧
      p.length % 64 = 0 ∧ msg.length + 9 ≤ p.length ∧ p.length ≤ msg.length + 72 ∧ 64 ≤ p.length ∧
      p.take msg.length = msg

/-- R111: the last eight bytes of every padded message, read most significant byte first, are exactly its length in bits, with no
truncation; a message of 2^61 bytes or more has no padding. -/
def Obligations.LengthFieldIsExact : Prop :=
  (∀ msg p : List Byte, pad msg = some p →
    (p.drop (p.length - 8)).length = 8 ∧
    (p.drop (p.length - 8)).foldl (fun n b => 256 * n + b.toNat) 0 = 8 * msg.length) ∧
  ∀ msg : List Byte, 2 ^ 61 ≤ msg.length → pad msg = none

/-- R112, R113: PARSE undoes BE32: the big-endian bytes of a word are parsed to that word. -/
def Obligations.ParseUndoesEmission : Prop :=
  ∀ w : Word, ∃ b0 b1 b2 b3 : Byte, be32 w = [b0, b1, b2, b3] ∧ be32Word b0 b1 b2 b3 = w ∧
    b0.toNat = w.toNat / 2 ^ 24 ∧ b3.toNat = w.toNat % 2 ^ 8

/-- R115: the streaming calls give the engine exactly the blocks of the padded concatenation, for every way the message is cut
into updates; with R114 the digest is SHA256 of the concatenation, 32 bytes (R116). -/
def Obligations.StreamingEqualsOneShot : Prop :=
  ∀ chunks : List (List Byte), chunks.flatten.length < 2 ^ 61 →
    ∃ st blocks p, Stream.new.updates chunks = some (st, blocks) ∧ pad chunks.flatten = some p ∧
      blocks ++ st.finalize = parseBlocks p ∧ st.buffer.length < 64 ∧
      st.length.toNat = chunks.flatten.length ∧
      sha256 chunks.flatten = some (emit ((blocks ++ st.finalize).foldl compress IV)) ∧
      (emit ((blocks ++ st.finalize).foldl compress IV)).length = 32

/-- R61: only `.cmd` can produce an illegal command word: every item any other line assembles to decodes, and an index outside the
range of its mnemonic is an assembly error. -/
def Obligations.OnlyRawLinesAssembleIllegalWords : Prop :=
  (∀ (line : AsmLine) (items : List HostItem), assemble line = some items → (∀ cmd word, line ≠ .cmd cmd word) →
    ∀ item ∈ items, ∃ cmd word, item.words = some (cmd, word) ∧ decode cmd word ≠ none) ∧
  (∀ (idx : Nat) (word : Word),
    (16 ≤ idx → assemble (.wrm idx word) = none) ∧
    (8 ≤ idx → assemble (.wrh idx word) = none ∧ assemble (.rdh idx) = none))

/-! The pins (30_encoding.md R50, R51; 70_reset_and_hazards.md R134, R142) -/

/-- R51: an edge at which a command is accepted while BUSY was 1 has the effect of two steps of the machine, the command and then
the engine step, but for the host's own bookkeeping of program, received words and turns. -/
def Obligations.SharedEdgeIsCommandThenEngineStep : Prop :=
  ∀ (s : State) (p : PinsIn), s.status.busy = true → s.j.toNat ≤ 64 → s.faulted = false →
    p.rst = false → p.cmdValid = true →
    ∃ t u, pinEdge p true s = .next t ∧
      runSteps 2 { s with program := [.command p.cmd p.wdata], turns := [.host, .engine] } = .next u ∧
      t = { u with program := s.program, received := s.received, turns := s.turns }

/-- R142, nominal timing: a START accepted at an edge of an idle engine is followed by 64 edges after each of which BUSY is still
1, and by a 65th, FINAL's, after which BUSY is 0 and H holds the compression, whatever commands are presented at those edges. The
nominal implementation is one of those R142 allows (log 15). -/
def Obligations.NominalCompressionTakes65Edges : Prop :=
  ∀ (s : State) (first : PinsIn) (ps : List PinsIn),
    s.status.busy = false → s.faulted = false → (∀ i : Fin 16, s.Mvalid[i.val] = true) →
    first.rst = false → first.cmdValid = true → first.cmd = 0x50000000 → (∀ p ∈ ps, p.rst = false) →
    (ps.length ≤ 64 → ∃ t, nominalEdges (first :: ps) s = .next t ∧ t.status.busy = true ∧ t.j.toNat = ps.length) ∧
    (ps.length = 65 → ∃ t, nominalEdges (first :: ps) s = .next t ∧ t.status.busy = false ∧ t.status.done = true ∧
      t.H = compress s.H s.M)

/-- R122, R134: at an edge with rst = 1 reset wins: a presented command is discarded, whatever it is, a running compression is
abandoned, and rsp_valid is 0 and rdata 0 in the following cycle. -/
def Obligations.ResetWinsAtAnEdge : Prop :=
  ∀ (s : State) (p : PinsIn) (advance : Bool), p.rst = true →
    ∃ t, pinEdge p advance s = .next t ∧
      t.H = IV ∧ t.status.word = 0 ∧ (∀ i : Fin 16, t.Mvalid[i.val] = false) ∧
      t.faulted = s.faulted ∧ pinsOut t = { rspValid := false, rdata := 0 } ∧
      engineStepEnabled t = none ∧
      ∀ cmdValid cmd wdata, pinEdge { p with cmdValid := cmdValid, cmd := cmd, wdata := wdata } advance s = .next t

/-- R50: after an edge that accepts a command the pins hold its response for one cycle; after an edge that accepts none,
rsp_valid = 0 and rdata = 0. -/
def Obligations.ResponsePinsLastOneCycle : Prop :=
  ∀ (s t : State) (p : PinsIn) (advance : Bool), p.rst = false → pinEdge p advance s = .next t →
    (p.cmdValid = false → pinsOut t = { rspValid := false, rdata := 0 }) ∧
    (p.cmdValid = true → t.faulted = false →
      ∃ u, issueCommand p.cmd p.wdata s = .next u ∧
        pinsOut t = { rspValid := true, rdata := (pinsOut u).rdata } ∧ (pinsOut u).rspValid = true)
end

