-- ==== Sys2Proof/Laws/Encoding.lean ====
section
/-! SUPPORT. The fields of a command word and the decoding of a word made from its fields, for the encoding statements. -/

namespace Sys2Proof

@[simp] theorem opField_commandWord (op idx : BitVec 4) : opField (commandWord op idx) = op := by
  revert op idx; decide

@[simp] theorem rsvField_commandWord (op idx : BitVec 4) : rsvField (commandWord op idx) = 0 := by
  revert op idx; decide

@[simp] theorem idxField_commandWord (op idx : BitVec 4) : idxField (commandWord op idx) = idx := by
  revert op idx; decide

/-- A word whose RSV field is 0 is made from its other two fields. -/
theorem commandWord_fields {cmd : Word} (h : rsvField cmd = 0) : commandWord (opField cmd) (idxField cmd) = cmd := by
  apply BitVec.eq_of_getLsbD_eq
  intro i hi
  have hr : ∀ k, k < 24 → cmd.getLsbD (4 + k) = false := by
    intro k hk
    simpa [rsvField, BitVec.getLsbD_extractLsb', hk] using congrArg (fun v => v.getLsbD k) h
  simp only [commandWord, opField, idxField, BitVec.getLsbD_append, BitVec.getLsbD_extractLsb']
  by_cases h4 : i < 4
  · simp [h4]
  · by_cases h28 : i < 28
    · have := hr (i - 4) (by omega)
      rw [show 4 + (i - 4) = i by omega] at this
      simp [h4, this, show i - 4 < 24 by omega]
    · simp [h4, show ¬ i - 4 < 24 by omega, show i - 4 - 24 < 4 by omega, show 28 + (i - 4 - 24) = i by omega]

/-- The decoder on a word made from its fields: R55 without the RSV test. -/
theorem decode_commandWord (op idx : BitVec 4) (w : Word) :
    decode (commandWord op idx) w =
      if op = 0x0 ∧ idx = 0 then some .nop
      else if op = 0x1 ∧ idx = 0 then some .init
      else if op = 0x2 then some (.wrm idx w)
      else if op = 0x3 ∧ idx.getLsbD 3 = false then some (.wrh idx w)
      else if op = 0x4 ∧ idx.getLsbD 3 = false then some (.rdh idx)
      else if op = 0x5 ∧ idx = 0 then some .start
      else if op = 0x6 ∧ idx = 0 then some .rdstat
      else none := by
  simp [decode]

theorem decode_of_rsv {cmd wdata : Word} (h : rsvField cmd ≠ 0) : decode cmd wdata = none := if_pos h

/-- "IDX[3] = 0" is the range 0..7 (R53). -/
theorem idx_low (idx : BitVec 4) : idx.getLsbD 3 = false ↔ idx.toNat < 8 := by revert idx; decide

end Sys2Proof
end

