-- ==== Sys2Proof/Laws/HostDuties.lean ====
section
/-! SUPPORT. The lengths of the padding and the block split of a byte sequence, for the statements about the host's duties. -/

namespace Sys2Proof.Machine

/-- The padding is 9 to 72 bytes and fills the message to a multiple of 64 (R110). -/
theorem padCount_range (n : Nat) : 9 ≤ padCount n ∧ padCount n ≤ 72 ∧ (n + padCount n) % 64 = 0 := by
  unfold padCount
  split <;> omega

theorem padding_length (n : Nat) : (padding n).length = padCount n := by
  have := padCount_range n
  simp [padding, be64]
  omega

theorem pad_eq_some {msg : List Byte} (h : msg.length < 2 ^ 61) : pad msg = some (msg ++ padding msg.length) :=
  if_pos (by unfold maxMessageBytes; omega)

theorem pad_eq_none {msg : List Byte} (h : 2 ^ 61 ≤ msg.length) : pad msg = none :=
  if_neg (by unfold maxMessageBytes; omega)

theorem blockBytes_get (p : List Byte) (k : Nat) (i : Fin 64) : (blockBytes p k)[i.val] = p.getD (64 * k + i.val) 0 := by
  simp [blockBytes]

/-- A block that lies in the first part of a sequence is a block of that part. -/
theorem blockBytes_append_left (a b : List Byte) (k : Nat) (h : 64 * k + 64 ≤ a.length) :
    blockBytes (a ++ b) k = blockBytes a k := by
  ext1 i hi
  rw [blockBytes_get _ _ ⟨i, hi⟩, blockBytes_get _ _ ⟨i, hi⟩]
  simp only [List.getD_eq_getElem?_getD]
  rw [List.getElem?_append_left (by omega)]

/-- A block beyond the first part of a sequence is a block of the second. -/
theorem blockBytes_append_right (a b : List Byte) (n k : Nat) (h : a.length = 64 * n) :
    blockBytes (a ++ b) (n + k) = blockBytes b k := by
  ext1 i hi
  rw [blockBytes_get _ _ ⟨i, hi⟩, blockBytes_get _ _ ⟨i, hi⟩]
  simp only [List.getD_eq_getElem?_getD]
  rw [List.getElem?_append_right (by omega), show 64 * (n + k) + i - a.length = 64 * k + i by omega]

/-- A sequence of whole blocks is parsed on its own. -/
theorem parseBlocks_append (a b : List Byte) (n : Nat) (h : a.length = 64 * n) :
    parseBlocks (a ++ b) = parseBlocks a ++ parseBlocks b := by
  have e1 : (a.length + b.length) / 64 = n + b.length / 64 := by omega
  have e2 : a.length / 64 = n := by omega
  simp only [parseBlocks, List.length_append, e1, e2, List.range_add, List.map_append, List.map_map]
  refine congrArg₂ (· ++ ·) (List.map_congr_left fun k hk => ?_) (List.map_congr_left fun k _ => ?_)
  · exact congrArg parse (blockBytes_append_left a b k (by have := List.mem_range.mp hk; omega))
  · exact congrArg parse (blockBytes_append_right a b n k h)

end Sys2Proof.Machine
end

