-- ==== Sys2Proof/Laws/State.lean ====
section
/-! SUPPORT. One lemma per field per update of the state, true by rfl, so that no later proof unfolds a record update. -/

namespace Sys2Proof.Machine

@[simp] theorem respond_H (v : Word) (s : State) : (respond v s).H = s.H := rfl
@[simp] theorem respond_M (v : Word) (s : State) : (respond v s).M = s.M := rfl
@[simp] theorem respond_work (v : Word) (s : State) : (respond v s).work = s.work := rfl
@[simp] theorem respond_W (v : Word) (s : State) : (respond v s).W = s.W := rfl
@[simp] theorem respond_j (v : Word) (s : State) : (respond v s).j = s.j := rfl
@[simp] theorem respond_status (v : Word) (s : State) : (respond v s).status = s.status := rfl
@[simp] theorem respond_Mvalid (v : Word) (s : State) : (respond v s).Mvalid = s.Mvalid := rfl
@[simp] theorem respond_faulted (v : Word) (s : State) : (respond v s).faulted = s.faulted := rfl
@[simp] theorem respond_rsp (v : Word) (s : State) : (respond v s).rsp = some v := rfl
@[simp] theorem respond_program (v : Word) (s : State) : (respond v s).program = s.program := rfl
@[simp] theorem respond_received (v : Word) (s : State) : (respond v s).received = s.received := rfl
@[simp] theorem respond_turns (v : Word) (s : State) : (respond v s).turns = s.turns := rfl
@[simp] theorem respond_resets (v : Word) (s : State) : (respond v s).resets = s.resets := rfl

@[simp] theorem writeH_H (i : Fin 8) (v : Word) (s : State) : (writeH i v s).H = s.H.set i.val v := rfl
@[simp] theorem writeH_M (i : Fin 8) (v : Word) (s : State) : (writeH i v s).M = s.M := rfl
@[simp] theorem writeH_work (i : Fin 8) (v : Word) (s : State) : (writeH i v s).work = s.work := rfl
@[simp] theorem writeH_W (i : Fin 8) (v : Word) (s : State) : (writeH i v s).W = s.W := rfl
@[simp] theorem writeH_j (i : Fin 8) (v : Word) (s : State) : (writeH i v s).j = s.j := rfl
@[simp] theorem writeH_status (i : Fin 8) (v : Word) (s : State) : (writeH i v s).status = s.status := rfl
@[simp] theorem writeH_Mvalid (i : Fin 8) (v : Word) (s : State) : (writeH i v s).Mvalid = s.Mvalid := rfl
@[simp] theorem writeH_faulted (i : Fin 8) (v : Word) (s : State) : (writeH i v s).faulted = s.faulted := rfl
@[simp] theorem writeH_rsp (i : Fin 8) (v : Word) (s : State) : (writeH i v s).rsp = s.rsp := rfl
@[simp] theorem writeH_program (i : Fin 8) (v : Word) (s : State) : (writeH i v s).program = s.program := rfl
@[simp] theorem writeH_received (i : Fin 8) (v : Word) (s : State) : (writeH i v s).received = s.received := rfl
@[simp] theorem writeH_turns (i : Fin 8) (v : Word) (s : State) : (writeH i v s).turns = s.turns := rfl
@[simp] theorem writeH_resets (i : Fin 8) (v : Word) (s : State) : (writeH i v s).resets = s.resets := rfl

@[simp] theorem loadIV_H (s : State) : (loadIV s).H = IV := rfl
@[simp] theorem loadIV_M (s : State) : (loadIV s).M = s.M := rfl
@[simp] theorem loadIV_work (s : State) : (loadIV s).work = s.work := rfl
@[simp] theorem loadIV_W (s : State) : (loadIV s).W = s.W := rfl
@[simp] theorem loadIV_j (s : State) : (loadIV s).j = s.j := rfl
@[simp] theorem loadIV_status (s : State) : (loadIV s).status = s.status := rfl
@[simp] theorem loadIV_Mvalid (s : State) : (loadIV s).Mvalid = s.Mvalid := rfl
@[simp] theorem loadIV_faulted (s : State) : (loadIV s).faulted = s.faulted := rfl
@[simp] theorem loadIV_rsp (s : State) : (loadIV s).rsp = s.rsp := rfl
@[simp] theorem loadIV_program (s : State) : (loadIV s).program = s.program := rfl
@[simp] theorem loadIV_received (s : State) : (loadIV s).received = s.received := rfl
@[simp] theorem loadIV_turns (s : State) : (loadIV s).turns = s.turns := rfl
@[simp] theorem loadIV_resets (s : State) : (loadIV s).resets = s.resets := rfl

@[simp] theorem writeM_H (i : Fin 16) (v : Word) (s : State) : (writeM i v s).H = s.H := rfl
@[simp] theorem writeM_M (i : Fin 16) (v : Word) (s : State) : (writeM i v s).M = s.M.set i.val v := rfl
@[simp] theorem writeM_work (i : Fin 16) (v : Word) (s : State) : (writeM i v s).work = s.work := rfl
@[simp] theorem writeM_W (i : Fin 16) (v : Word) (s : State) : (writeM i v s).W = s.W := rfl
@[simp] theorem writeM_j (i : Fin 16) (v : Word) (s : State) : (writeM i v s).j = s.j := rfl
@[simp] theorem writeM_status (i : Fin 16) (v : Word) (s : State) : (writeM i v s).status = s.status := rfl
@[simp] theorem writeM_Mvalid (i : Fin 16) (v : Word) (s : State) : (writeM i v s).Mvalid = s.Mvalid.set i.val true := rfl
@[simp] theorem writeM_faulted (i : Fin 16) (v : Word) (s : State) : (writeM i v s).faulted = s.faulted := rfl
@[simp] theorem writeM_rsp (i : Fin 16) (v : Word) (s : State) : (writeM i v s).rsp = s.rsp := rfl
@[simp] theorem writeM_program (i : Fin 16) (v : Word) (s : State) : (writeM i v s).program = s.program := rfl
@[simp] theorem writeM_received (i : Fin 16) (v : Word) (s : State) : (writeM i v s).received = s.received := rfl
@[simp] theorem writeM_turns (i : Fin 16) (v : Word) (s : State) : (writeM i v s).turns = s.turns := rfl
@[simp] theorem writeM_resets (i : Fin 16) (v : Word) (s : State) : (writeM i v s).resets = s.resets := rfl

@[simp] theorem clearDone_H (s : State) : (clearDone s).H = s.H := rfl
@[simp] theorem clearDone_M (s : State) : (clearDone s).M = s.M := rfl
@[simp] theorem clearDone_work (s : State) : (clearDone s).work = s.work := rfl
@[simp] theorem clearDone_W (s : State) : (clearDone s).W = s.W := rfl
@[simp] theorem clearDone_j (s : State) : (clearDone s).j = s.j := rfl
@[simp] theorem clearDone_status (s : State) : (clearDone s).status = s.status.clearDone := rfl
@[simp] theorem clearDone_Mvalid (s : State) : (clearDone s).Mvalid = s.Mvalid := rfl
@[simp] theorem clearDone_faulted (s : State) : (clearDone s).faulted = s.faulted := rfl
@[simp] theorem clearDone_rsp (s : State) : (clearDone s).rsp = s.rsp := rfl
@[simp] theorem clearDone_program (s : State) : (clearDone s).program = s.program := rfl
@[simp] theorem clearDone_received (s : State) : (clearDone s).received = s.received := rfl
@[simp] theorem clearDone_turns (s : State) : (clearDone s).turns = s.turns := rfl
@[simp] theorem clearDone_resets (s : State) : (clearDone s).resets = s.resets := rfl

@[simp] theorem raiseError_H (c : Cause) (s : State) : (raiseError c s).H = s.H := rfl
@[simp] theorem raiseError_M (c : Cause) (s : State) : (raiseError c s).M = s.M := rfl
@[simp] theorem raiseError_work (c : Cause) (s : State) : (raiseError c s).work = s.work := rfl
@[simp] theorem raiseError_W (c : Cause) (s : State) : (raiseError c s).W = s.W := rfl
@[simp] theorem raiseError_j (c : Cause) (s : State) : (raiseError c s).j = s.j := rfl
@[simp] theorem raiseError_status (c : Cause) (s : State) : (raiseError c s).status = s.status.error c := rfl
@[simp] theorem raiseError_Mvalid (c : Cause) (s : State) : (raiseError c s).Mvalid = s.Mvalid := rfl
@[simp] theorem raiseError_faulted (c : Cause) (s : State) : (raiseError c s).faulted = s.faulted := rfl
@[simp] theorem raiseError_rsp (c : Cause) (s : State) : (raiseError c s).rsp = s.rsp := rfl
@[simp] theorem raiseError_program (c : Cause) (s : State) : (raiseError c s).program = s.program := rfl
@[simp] theorem raiseError_received (c : Cause) (s : State) : (raiseError c s).received = s.received := rfl
@[simp] theorem raiseError_turns (c : Cause) (s : State) : (raiseError c s).turns = s.turns := rfl
@[simp] theorem raiseError_resets (c : Cause) (s : State) : (raiseError c s).resets = s.resets := rfl

@[simp] theorem reject_H (c : Cause) (s : State) : (reject c s).H = s.H := rfl
@[simp] theorem reject_M (c : Cause) (s : State) : (reject c s).M = s.M := rfl
@[simp] theorem reject_work (c : Cause) (s : State) : (reject c s).work = s.work := rfl
@[simp] theorem reject_W (c : Cause) (s : State) : (reject c s).W = s.W := rfl
@[simp] theorem reject_j (c : Cause) (s : State) : (reject c s).j = s.j := rfl
@[simp] theorem reject_status (c : Cause) (s : State) : (reject c s).status = s.status.error c := rfl
@[simp] theorem reject_Mvalid (c : Cause) (s : State) : (reject c s).Mvalid = s.Mvalid := rfl
@[simp] theorem reject_faulted (c : Cause) (s : State) : (reject c s).faulted = s.faulted := rfl
@[simp] theorem reject_rsp (c : Cause) (s : State) : (reject c s).rsp = some 0 := rfl
@[simp] theorem reject_program (c : Cause) (s : State) : (reject c s).program = s.program := rfl
@[simp] theorem reject_received (c : Cause) (s : State) : (reject c s).received = s.received := rfl
@[simp] theorem reject_turns (c : Cause) (s : State) : (reject c s).turns = s.turns := rfl
@[simp] theorem reject_resets (c : Cause) (s : State) : (reject c s).resets = s.resets := rfl

@[simp] theorem modelFault_H (s : State) : (modelFault s).H = s.H := rfl
@[simp] theorem modelFault_M (s : State) : (modelFault s).M = s.M := rfl
@[simp] theorem modelFault_work (s : State) : (modelFault s).work = s.work := rfl
@[simp] theorem modelFault_W (s : State) : (modelFault s).W = s.W := rfl
@[simp] theorem modelFault_j (s : State) : (modelFault s).j = s.j := rfl
@[simp] theorem modelFault_status (s : State) : (modelFault s).status = s.status := rfl
@[simp] theorem modelFault_Mvalid (s : State) : (modelFault s).Mvalid = s.Mvalid := rfl
@[simp] theorem modelFault_faulted (s : State) : (modelFault s).faulted = true := rfl
@[simp] theorem modelFault_rsp (s : State) : (modelFault s).rsp = s.rsp := rfl
@[simp] theorem modelFault_program (s : State) : (modelFault s).program = s.program := rfl
@[simp] theorem modelFault_received (s : State) : (modelFault s).received = s.received := rfl
@[simp] theorem modelFault_turns (s : State) : (modelFault s).turns = s.turns := rfl
@[simp] theorem modelFault_resets (s : State) : (modelFault s).resets = s.resets := rfl

@[simp] theorem load_H (s : State) : (load s).H = s.H := rfl
@[simp] theorem load_M (s : State) : (load s).M = s.M := rfl
@[simp] theorem load_work (s : State) : (load s).work = Working.ofChain s.H := rfl
@[simp] theorem load_W (s : State) : (load s).W = loadSchedule s.W s.M := rfl
@[simp] theorem load_j (s : State) : (load s).j = 0 := rfl
@[simp] theorem load_status (s : State) : (load s).status = s.status := rfl
@[simp] theorem load_Mvalid (s : State) : (load s).Mvalid = s.Mvalid := rfl
@[simp] theorem load_faulted (s : State) : (load s).faulted = s.faulted := rfl
@[simp] theorem load_rsp (s : State) : (load s).rsp = s.rsp := rfl
@[simp] theorem load_program (s : State) : (load s).program = s.program := rfl
@[simp] theorem load_received (s : State) : (load s).received = s.received := rfl
@[simp] theorem load_turns (s : State) : (load s).turns = s.turns := rfl
@[simp] theorem load_resets (s : State) : (load s).resets = s.resets := rfl

@[simp] theorem setBusy_H (s : State) : (setBusy s).H = s.H := rfl
@[simp] theorem setBusy_M (s : State) : (setBusy s).M = s.M := rfl
@[simp] theorem setBusy_work (s : State) : (setBusy s).work = s.work := rfl
@[simp] theorem setBusy_W (s : State) : (setBusy s).W = s.W := rfl
@[simp] theorem setBusy_j (s : State) : (setBusy s).j = s.j := rfl
@[simp] theorem setBusy_status (s : State) : (setBusy s).status = s.status.started := rfl
@[simp] theorem setBusy_Mvalid (s : State) : (setBusy s).Mvalid = s.Mvalid := rfl
@[simp] theorem setBusy_faulted (s : State) : (setBusy s).faulted = s.faulted := rfl
@[simp] theorem setBusy_rsp (s : State) : (setBusy s).rsp = s.rsp := rfl
@[simp] theorem setBusy_program (s : State) : (setBusy s).program = s.program := rfl
@[simp] theorem setBusy_received (s : State) : (setBusy s).received = s.received := rfl
@[simp] theorem setBusy_turns (s : State) : (setBusy s).turns = s.turns := rfl
@[simp] theorem setBusy_resets (s : State) : (setBusy s).resets = s.resets := rfl

@[simp] theorem roundStep_H (j : Fin 64) (s : State) : (roundStep j s).H = s.H := rfl
@[simp] theorem roundStep_M (j : Fin 64) (s : State) : (roundStep j s).M = s.M := rfl
@[simp] theorem roundStep_work (j : Fin 64) (s : State) : (roundStep j s).work = s.work.round (K j) (expand s.W j)[j.val] := rfl
@[simp] theorem roundStep_W (j : Fin 64) (s : State) : (roundStep j s).W = expand s.W j := rfl
@[simp] theorem roundStep_j (j : Fin 64) (s : State) : (roundStep j s).j = s.j + 1 := rfl
@[simp] theorem roundStep_status (j : Fin 64) (s : State) : (roundStep j s).status = s.status := rfl
@[simp] theorem roundStep_Mvalid (j : Fin 64) (s : State) : (roundStep j s).Mvalid = s.Mvalid := rfl
@[simp] theorem roundStep_faulted (j : Fin 64) (s : State) : (roundStep j s).faulted = s.faulted := rfl
@[simp] theorem roundStep_rsp (j : Fin 64) (s : State) : (roundStep j s).rsp = s.rsp := rfl
@[simp] theorem roundStep_program (j : Fin 64) (s : State) : (roundStep j s).program = s.program := rfl
@[simp] theorem roundStep_received (j : Fin 64) (s : State) : (roundStep j s).received = s.received := rfl
@[simp] theorem roundStep_turns (j : Fin 64) (s : State) : (roundStep j s).turns = s.turns := rfl
@[simp] theorem roundStep_resets (j : Fin 64) (s : State) : (roundStep j s).resets = s.resets := rfl

@[simp] theorem finalStep_H (s : State) : (finalStep s).H = feedForward s.H s.work := rfl
@[simp] theorem finalStep_M (s : State) : (finalStep s).M = s.M := rfl
@[simp] theorem finalStep_work (s : State) : (finalStep s).work = s.work := rfl
@[simp] theorem finalStep_W (s : State) : (finalStep s).W = s.W := rfl
@[simp] theorem finalStep_j (s : State) : (finalStep s).j = s.j := rfl
@[simp] theorem finalStep_status (s : State) : (finalStep s).status = s.status.finished := rfl
@[simp] theorem finalStep_Mvalid (s : State) : (finalStep s).Mvalid = s.Mvalid := rfl
@[simp] theorem finalStep_faulted (s : State) : (finalStep s).faulted = s.faulted := rfl
@[simp] theorem finalStep_rsp (s : State) : (finalStep s).rsp = s.rsp := rfl
@[simp] theorem finalStep_program (s : State) : (finalStep s).program = s.program := rfl
@[simp] theorem finalStep_received (s : State) : (finalStep s).received = s.received := rfl
@[simp] theorem finalStep_turns (s : State) : (finalStep s).turns = s.turns := rfl
@[simp] theorem finalStep_resets (s : State) : (finalStep s).resets = s.resets := rfl

@[simp] theorem clearRsp_H (s : State) : (clearRsp s).H = s.H := rfl
@[simp] theorem clearRsp_M (s : State) : (clearRsp s).M = s.M := rfl
@[simp] theorem clearRsp_work (s : State) : (clearRsp s).work = s.work := rfl
@[simp] theorem clearRsp_W (s : State) : (clearRsp s).W = s.W := rfl
@[simp] theorem clearRsp_j (s : State) : (clearRsp s).j = s.j := rfl
@[simp] theorem clearRsp_status (s : State) : (clearRsp s).status = s.status := rfl
@[simp] theorem clearRsp_Mvalid (s : State) : (clearRsp s).Mvalid = s.Mvalid := rfl
@[simp] theorem clearRsp_faulted (s : State) : (clearRsp s).faulted = s.faulted := rfl
@[simp] theorem clearRsp_rsp (s : State) : (clearRsp s).rsp = none := rfl
@[simp] theorem clearRsp_program (s : State) : (clearRsp s).program = s.program := rfl
@[simp] theorem clearRsp_received (s : State) : (clearRsp s).received = s.received := rfl
@[simp] theorem clearRsp_turns (s : State) : (clearRsp s).turns = s.turns := rfl
@[simp] theorem clearRsp_resets (s : State) : (clearRsp s).resets = s.resets := rfl

@[simp] theorem dropItem_H (rest : List HostItem) (s : State) : (dropItem rest s).H = s.H := rfl
@[simp] theorem dropItem_M (rest : List HostItem) (s : State) : (dropItem rest s).M = s.M := rfl
@[simp] theorem dropItem_work (rest : List HostItem) (s : State) : (dropItem rest s).work = s.work := rfl
@[simp] theorem dropItem_W (rest : List HostItem) (s : State) : (dropItem rest s).W = s.W := rfl
@[simp] theorem dropItem_j (rest : List HostItem) (s : State) : (dropItem rest s).j = s.j := rfl
@[simp] theorem dropItem_status (rest : List HostItem) (s : State) : (dropItem rest s).status = s.status := rfl
@[simp] theorem dropItem_Mvalid (rest : List HostItem) (s : State) : (dropItem rest s).Mvalid = s.Mvalid := rfl
@[simp] theorem dropItem_faulted (rest : List HostItem) (s : State) : (dropItem rest s).faulted = s.faulted := rfl
@[simp] theorem dropItem_rsp (rest : List HostItem) (s : State) : (dropItem rest s).rsp = s.rsp := rfl
@[simp] theorem dropItem_program (rest : List HostItem) (s : State) : (dropItem rest s).program = rest := rfl
@[simp] theorem dropItem_received (rest : List HostItem) (s : State) : (dropItem rest s).received = s.received := rfl
@[simp] theorem dropItem_turns (rest : List HostItem) (s : State) : (dropItem rest s).turns = s.turns := rfl
@[simp] theorem dropItem_resets (rest : List HostItem) (s : State) : (dropItem rest s).resets = s.resets := rfl

@[simp] theorem drawTurn_H (s : State) : (drawTurn s).H = s.H := rfl
@[simp] theorem drawTurn_M (s : State) : (drawTurn s).M = s.M := rfl
@[simp] theorem drawTurn_work (s : State) : (drawTurn s).work = s.work := rfl
@[simp] theorem drawTurn_W (s : State) : (drawTurn s).W = s.W := rfl
@[simp] theorem drawTurn_j (s : State) : (drawTurn s).j = s.j := rfl
@[simp] theorem drawTurn_status (s : State) : (drawTurn s).status = s.status := rfl
@[simp] theorem drawTurn_Mvalid (s : State) : (drawTurn s).Mvalid = s.Mvalid := rfl
@[simp] theorem drawTurn_faulted (s : State) : (drawTurn s).faulted = s.faulted := rfl
@[simp] theorem drawTurn_rsp (s : State) : (drawTurn s).rsp = s.rsp := rfl
@[simp] theorem drawTurn_program (s : State) : (drawTurn s).program = s.program := rfl
@[simp] theorem drawTurn_received (s : State) : (drawTurn s).received = s.received := rfl
@[simp] theorem drawTurn_turns (s : State) : (drawTurn s).turns = s.turns.tail := rfl
@[simp] theorem drawTurn_resets (s : State) : (drawTurn s).resets = s.resets := rfl

@[simp] theorem receive_H (item : HostItem) (s : State) : (receive item s).H = s.H := rfl
@[simp] theorem receive_M (item : HostItem) (s : State) : (receive item s).M = s.M := rfl
@[simp] theorem receive_work (item : HostItem) (s : State) : (receive item s).work = s.work := rfl
@[simp] theorem receive_W (item : HostItem) (s : State) : (receive item s).W = s.W := rfl
@[simp] theorem receive_j (item : HostItem) (s : State) : (receive item s).j = s.j := rfl
@[simp] theorem receive_status (item : HostItem) (s : State) : (receive item s).status = s.status := rfl
@[simp] theorem receive_Mvalid (item : HostItem) (s : State) : (receive item s).Mvalid = s.Mvalid := rfl
@[simp] theorem receive_faulted (item : HostItem) (s : State) : (receive item s).faulted = s.faulted := rfl
@[simp] theorem receive_rsp (item : HostItem) (s : State) : (receive item s).rsp = s.rsp := rfl
@[simp] theorem receive_program (item : HostItem) (s : State) : (receive item s).program = if item.repeats s.rsp then item :: s.program else s.program := rfl
@[simp] theorem receive_received (item : HostItem) (s : State) : (receive item s).received = s.received ++ s.rsp.toList := rfl
@[simp] theorem receive_turns (item : HostItem) (s : State) : (receive item s).turns = s.turns := rfl
@[simp] theorem receive_resets (item : HostItem) (s : State) : (receive item s).resets = s.resets := rfl

@[simp] theorem resetEngine_H (s : State) : (resetEngine s).H = IV := rfl
@[simp] theorem resetEngine_status (s : State) : (resetEngine s).status = Status.zero := rfl
@[simp] theorem resetEngine_Mvalid (s : State) : (resetEngine s).Mvalid = Vector.replicate 16 false := rfl
@[simp] theorem resetEngine_faulted (s : State) : (resetEngine s).faulted = s.faulted := rfl
@[simp] theorem resetEngine_rsp (s : State) : (resetEngine s).rsp = none := rfl
@[simp] theorem resetEngine_program (s : State) : (resetEngine s).program = s.program := rfl
@[simp] theorem resetEngine_received (s : State) : (resetEngine s).received = s.received := rfl
@[simp] theorem resetEngine_turns (s : State) : (resetEngine s).turns = s.turns := rfl
@[simp] theorem resetEngine_resets (s : State) : (resetEngine s).resets = s.resets + 1 := rfl

@[simp] theorem Status.error_busy (s : Status) (c : Cause) : (s.error c).busy = s.busy := rfl
@[simp] theorem Status.error_done (s : Status) (c : Cause) : (s.error c).done = s.done := rfl
@[simp] theorem Status.error_err (s : Status) (c : Cause) : (s.error c).err = true := rfl
@[simp] theorem Status.error_cause (s : Status) (c : Cause) : (s.error c).cause = if s.err then s.cause else c := rfl
@[simp] theorem Status.started_busy (s : Status) : (s.started).busy = true := rfl
@[simp] theorem Status.started_done (s : Status) : (s.started).done = false := rfl
@[simp] theorem Status.started_err (s : Status) : (s.started).err = s.err := rfl
@[simp] theorem Status.started_cause (s : Status) : (s.started).cause = s.cause := rfl
@[simp] theorem Status.finished_busy (s : Status) : (s.finished).busy = false := rfl
@[simp] theorem Status.finished_done (s : Status) : (s.finished).done = true := rfl
@[simp] theorem Status.finished_err (s : Status) : (s.finished).err = s.err := rfl
@[simp] theorem Status.finished_cause (s : Status) : (s.finished).cause = s.cause := rfl
@[simp] theorem Status.clearDone_busy (s : Status) : (s.clearDone).busy = s.busy := rfl
@[simp] theorem Status.clearDone_done (s : Status) : (s.clearDone).done = false := rfl
@[simp] theorem Status.clearDone_err (s : Status) : (s.clearDone).err = s.err := rfl
@[simp] theorem Status.clearDone_cause (s : Status) : (s.clearDone).cause = s.cause := rfl
@[simp] theorem Status.zero_busy : Status.zero.busy = false := rfl
@[simp] theorem Status.zero_done : Status.zero.done = false := rfl
@[simp] theorem Status.zero_err : Status.zero.err = false := rfl
@[simp] theorem Status.zero_cause : Status.zero.cause = Cause.none := rfl

end Sys2Proof.Machine
end

