-- ==== Sys2Proof/Laws/Ops.lean ====
section
/-! SUPPORT. One lemma per shared operation that says once everything it can do, for the provers to cite instead of unfolding. -/

namespace Sys2Proof.Machine

open Host (Outcome)

/-! Operands -/

@[simp] theorem mIndex_val (idx : BitVec 4) : (mIndex idx).val = idx.toNat := rfl

theorem hIndex_of_lt {idx : BitVec 4} (h : idx.toNat < 8) : hIndex idx = some ⟨idx.toNat, h⟩ := dif_pos h

theorem hIndex_of_ge {idx : BitVec 4} (h : 8 ≤ idx.toNat) : hIndex idx = none := dif_neg (by omega)

theorem roundIndex_of_lt {j : BitVec 7} (h : j.toNat < 64) : roundIndex j = some ⟨j.toNat, h⟩ := dif_pos h

theorem roundIndex_of_ge {j : BitVec 7} (h : 64 ≤ j.toNat) : roundIndex j = none := dif_neg (by omega)

theorem allWritten_iff (s : State) : allWritten s = true ↔ ∀ i : Fin 16, s.Mvalid[i.val] = true := by
  simp only [allWritten, List.all_eq_true, Vector.mem_toList_iff, Vector.mem_iff_getElem, id_eq]
  exact ⟨fun h i => h _ ⟨i.val, i.isLt, rfl⟩, by rintro h _ ⟨i, hi, rfl⟩; exact h ⟨i, hi⟩⟩

/-! Adders -/

theorem ADD32_eq_add (x y : Word) : ADD32 x y = x + y := by
  apply BitVec.eq_of_toNat_eq
  simp [ADD32]

theorem SUM_nil : SUM [] = 0 := rfl

theorem SUM_cons (x : Word) (xs : List Word) : SUM (x :: xs) = x + SUM xs := by
  apply BitVec.eq_of_toNat_eq
  simp [SUM]

/-! The schedule and the feed-forward, entry by entry -/

theorem expand_low {W : Schedule} {j : Fin 64} (h : j.val < 16) : expand W j = W := if_neg (by omega)

theorem expand_high {W : Schedule} {j : Fin 64} (h : 16 ≤ j.val) :
    expand W j = W.set j.val (scheduleWord W j) := if_pos h

theorem expand_get_ne (W : Schedule) (j k : Fin 64) (h : k ≠ j) : (expand W j)[k.val] = W[k.val] := by
  unfold expand
  split
  · exact Vector.getElem_set_ne _ _ (fun e => h (Fin.ext e.symm))
  · rfl

theorem loadSchedule_get_low (W : Schedule) (M : Block) (k : Fin 64) (h : k.val < 16) :
    (loadSchedule W M)[k.val] = M[k.val] := by simp [loadSchedule, h]

theorem loadSchedule_get_high (W : Schedule) (M : Block) (k : Fin 64) (h : 16 ≤ k.val) :
    (loadSchedule W M)[k.val] = W[k.val] := by
  simp [loadSchedule, Nat.not_lt.mpr h]

theorem feedForward_get (H : Chain) (r : Working) (i : Fin 8) :
    (feedForward H r)[i.val] = ADD32 H[i.val] (r.reg i) := by
  fin_cases i <;> rfl

theorem Working.ofChain_reg (H : Chain) (i : Fin 8) : (Working.ofChain H).reg i = H[i.val] := by
  fin_cases i <;> rfl

/-- A ROUND reads only W[j], W[j-2], W[j-7], W[j-15] and W[j-16] (10_state.md R18): schedules that agree on the words before
max(16, j) give the same schedule word. -/
theorem scheduleWord_congr {V W : Schedule} {j : Fin 64} (hj : 16 ≤ j.val)
    (h : ∀ k : Fin 64, k.val < j.val → V[k.val] = W[k.val]) : scheduleWord V j = scheduleWord W j := by
  have g : ∀ n (hn : n < j.val), V[n]'(by omega) = W[n]'(by omega) := fun n hn => h ⟨n, by omega⟩ hn
  unfold scheduleWord
  rw [g (j.val - 16) (by omega), g (j.val - 15) (by omega), g (j.val - 7) (by omega), g (j.val - 2) (by omega)]

/-! The commands: one equation per case of each meaning -/

theorem execInit_busy {s : State} (h : s.status.busy = true) : execInit s = .next (reject .busyViolation s) := if_pos h

theorem execInit_idle {s : State} (h : s.status.busy = false) :
    execInit s = .next (respond 0 (clearDone (loadIV s))) := by simp [execInit, h]

theorem execWrm_busy {s : State} (idx : BitVec 4) (word : Word) (h : s.status.busy = true) :
    execWrm idx word s = .next (reject .busyViolation s) := if_pos h

theorem execWrm_idle {s : State} (idx : BitVec 4) (word : Word) (h : s.status.busy = false) :
    execWrm idx word s = .next (respond 0 (writeM (mIndex idx) word s)) := by simp [execWrm, h]

theorem execWrh_range {idx : BitVec 4} (word : Word) (s : State) (h : 8 ≤ idx.toNat) :
    execWrh idx word s = .next (reject .illegalCmd s) := by simp [execWrh, hIndex_of_ge h]

theorem execWrh_busy {idx : BitVec 4} {s : State} (word : Word) (h : idx.toNat < 8) (hb : s.status.busy = true) :
    execWrh idx word s = .next (reject .busyViolation s) := by simp [execWrh, hIndex_of_lt h, hb]

theorem execWrh_idle {idx : BitVec 4} {s : State} (word : Word) (h : idx.toNat < 8) (hb : s.status.busy = false) :
    execWrh idx word s = .next (respond 0 (clearDone (writeH ⟨idx.toNat, h⟩ word s))) := by
  simp [execWrh, hIndex_of_lt h, hb]

theorem execRdh_range {idx : BitVec 4} (s : State) (h : 8 ≤ idx.toNat) :
    execRdh idx s = .next (reject .illegalCmd s) := by simp [execRdh, hIndex_of_ge h]

theorem execRdh_busy {idx : BitVec 4} {s : State} (h : idx.toNat < 8) (hb : s.status.busy = true) :
    execRdh idx s = .next (reject .busyViolation s) := by simp [execRdh, hIndex_of_lt h, hb]

theorem execRdh_idle {idx : BitVec 4} {s : State} (h : idx.toNat < 8) (hb : s.status.busy = false) :
    execRdh idx s = .next (respond s.H[idx.toNat] s) := by simp [execRdh, hIndex_of_lt h, hb]

theorem execStart_busy {s : State} (h : s.status.busy = true) : execStart s = .next (reject .busyViolation s) := if_pos h

theorem execStart_written {s : State} (h : s.status.busy = false) (hw : allWritten s = true) :
    execStart s = .next (respond 0 (setBusy (load s))) := by simp [execStart, h, hw]

theorem execStart_unwritten {s : State} (h : s.status.busy = false) (hw : allWritten s = false) :
    execStart s = .next (modelFault s) := by simp [execStart, h, hw]

theorem execRound_enabled {s : State} (hb : s.status.busy = true) (hj : s.j.toNat < 64) :
    execRound s = .next (roundStep ⟨s.j.toNat, hj⟩ s) := by simp [execRound, hb, roundIndex_of_lt hj]

theorem execFinal_enabled {s : State} (hb : s.status.busy = true) (hj : s.j.toNat = 64) :
    execFinal s = .next (finalStep s) := if_pos ⟨hb, hj⟩

/-- Everything a command's next state can be. -/
inductive CommandResult (s : State) : Instr → State → Prop where
  | nop : CommandResult s .nop (respond 0 s)
  | rdstat : CommandResult s .rdstat (respond s.status.word s)
  | busy {i : Instr} (hi : i.isCommand = true) (hl : i.legalWhileBusy = false) (hb : s.status.busy = true) :
      CommandResult s i (reject .busyViolation s)
  | range {i : Instr} (hi : i.isCommand = true) (hw : i.wellFormed = false) : CommandResult s i (reject .illegalCmd s)
  | init (hb : s.status.busy = false) : CommandResult s .init (respond 0 (clearDone (loadIV s)))
  | wrm (idx : BitVec 4) (word : Word) (hb : s.status.busy = false) :
      CommandResult s (.wrm idx word) (respond 0 (writeM (mIndex idx) word s))
  | wrh (idx : BitVec 4) (word : Word) (h : idx.toNat < 8) (hb : s.status.busy = false) :
      CommandResult s (.wrh idx word) (respond 0 (clearDone (writeH ⟨idx.toNat, h⟩ word s)))
  | rdh (idx : BitVec 4) (h : idx.toNat < 8) (hb : s.status.busy = false) :
      CommandResult s (.rdh idx) (respond s.H[idx.toNat] s)
  | start (hb : s.status.busy = false) (hw : allWritten s = true) :
      CommandResult s .start (respond 0 (setBusy (load s)))
  | unwritten (hb : s.status.busy = false) (hw : allWritten s = false) : CommandResult s .start (modelFault s)

/-- Every command answers a next state, one of those of `CommandResult`. -/
theorem exec_command (i : Instr) (s : State) (hi : i.isCommand = true) :
    ∃ t, exec i s = .next t ∧ CommandResult s i t := by
  cases i with
  | nop => exact ⟨_, rfl, .nop⟩
  | rdstat => exact ⟨_, rfl, .rdstat⟩
  | init =>
    cases hb : s.status.busy with
    | true => exact ⟨_, execInit_busy hb, .busy rfl rfl hb⟩
    | false => exact ⟨_, execInit_idle hb, .init hb⟩
  | wrm idx word =>
    cases hb : s.status.busy with
    | true => exact ⟨_, execWrm_busy idx word hb, .busy rfl rfl hb⟩
    | false => exact ⟨_, execWrm_idle idx word hb, .wrm idx word hb⟩
  | wrh idx word =>
    rcases Nat.lt_or_ge idx.toNat 8 with h | h
    · cases hb : s.status.busy with
      | true => exact ⟨_, execWrh_busy word h hb, .busy rfl rfl hb⟩
      | false => exact ⟨_, execWrh_idle word h hb, .wrh idx word h hb⟩
    · exact ⟨_, execWrh_range word s h, .range rfl (by simpa [Instr.wellFormed] using h)⟩
  | rdh idx =>
    rcases Nat.lt_or_ge idx.toNat 8 with h | h
    · cases hb : s.status.busy with
      | true => exact ⟨_, execRdh_busy h hb, .busy rfl rfl hb⟩
      | false => exact ⟨_, execRdh_idle h hb, .rdh idx h hb⟩
    · exact ⟨_, execRdh_range s h, .range rfl (by simpa [Instr.wellFormed] using h)⟩
  | start =>
    cases hb : s.status.busy with
    | true => exact ⟨_, execStart_busy hb, .busy rfl rfl hb⟩
    | false =>
      cases hw : allWritten s with
      | true => exact ⟨_, execStart_written hb hw, .start hb hw⟩
      | false => exact ⟨_, execStart_unwritten hb hw, .unwritten hb hw⟩
  | round => cases hi
  | final => cases hi

/-! Decoding -/

/-- The decoder gives only well-formed commands. -/
theorem decode_some {cmd wdata : Word} {i : Instr} (h : decode cmd wdata = some i) :
    i.isCommand = true ∧ i.wellFormed = true := by
  have low : ∀ b : BitVec 4, b.getLsbD 3 = false → b.toNat < 8 := by decide
  simp only [decode] at h
  split at h
  · cases h
  split at h
  · cases h; exact ⟨rfl, rfl⟩
  split at h
  · cases h; exact ⟨rfl, rfl⟩
  split at h
  · cases h; exact ⟨rfl, rfl⟩
  split at h
  · next hw => cases h; exact ⟨rfl, by simpa [Instr.wellFormed] using low _ hw.2⟩
  split at h
  · next hw => cases h; exact ⟨rfl, by simpa [Instr.wellFormed] using low _ hw.2⟩
  split at h
  · cases h; exact ⟨rfl, rfl⟩
  split at h
  · cases h; exact ⟨rfl, rfl⟩
  · cases h

theorem issueCommand_illegal {cmd wdata : Word} {s : State} (h : decode cmd wdata = none) :
    issueCommand cmd wdata s = .next (reject .illegalCmd s) := by simp [issueCommand, h]

theorem issueCommand_legal {cmd wdata : Word} {s : State} {i : Instr} (h : decode cmd wdata = some i) :
    issueCommand cmd wdata s = exec i s := by simp [issueCommand, h]

/-- A word on the port always answers a next state: an ILLEGAL word's, or its command's. -/
theorem issueCommand_next (cmd wdata : Word) (s : State) :
    ∃ t, issueCommand cmd wdata s = .next t ∧
      ((decode cmd wdata = none ∧ t = reject .illegalCmd s) ∨
        ∃ i, decode cmd wdata = some i ∧ i.wellFormed = true ∧ CommandResult s i t) := by
  cases h : decode cmd wdata with
  | none => exact ⟨_, issueCommand_illegal h, .inl ⟨rfl, rfl⟩⟩
  | some i =>
    obtain ⟨t, ht, hr⟩ := exec_command i s (decode_some h).1
    exact ⟨t, (issueCommand_legal h).trans ht, .inr ⟨i, rfl, (decode_some h).2, hr⟩⟩

theorem acceptCommand_clear {cmd wdata : Word} {s : State} (h : s.faulted = false) :
    acceptCommand cmd wdata s = issueCommand cmd wdata (clearRsp s) := by simp [acceptCommand, h]

theorem acceptCommand_faulted {cmd wdata : Word} {s : State} (h : s.faulted = true) :
    acceptCommand cmd wdata s = .fault .modelFaulted := if_pos h

/-! The step -/

/-- Everything a step's next state can be. -/
inductive StepResult (s : State) : State → Prop where
  | hostIdle (ht : nextTurn s = .host) (hp : s.program = []) : StepResult s (drawTurn s)
  | hostMark {rest : List HostItem} (ht : nextTurn s = .host) (hp : s.program = .nextMessage :: rest) :
      StepResult s (dropItem rest (drawTurn s))
  | hostCommand {item : HostItem} {cmd wdata : Word} {rest : List HostItem} {u : State} (ht : nextTurn s = .host)
      (hp : s.program = item :: rest) (hw : item.words = some (cmd, wdata)) (hf : s.faulted = false)
      (hu : issueCommand cmd wdata (clearRsp (dropItem rest (drawTurn s))) = .next u) :
      StepResult s (receive item u)
  | engineIdle (ht : nextTurn s = .engine) (hb : s.status.busy = false) : StepResult s (drawTurn s)
  | engineRound (ht : nextTurn s = .engine) (hb : s.status.busy = true) (hj : s.j.toNat < 64) :
      StepResult s (roundStep ⟨s.j.toNat, hj⟩ (drawTurn s))
  | engineFinal (ht : nextTurn s = .engine) (hb : s.status.busy = true) (hj : s.j.toNat = 64) :
      StepResult s (finalStep (drawTurn s))
  | reset (ht : nextTurn s = .reset) : StepResult s (resetEngine (drawTurn s))

theorem engineTurn_idle {s : State} (hb : s.status.busy = false) : engineTurn s = .next s := by
  simp [engineTurn, engineStepEnabled, hb]

theorem engineTurn_round {s : State} (hb : s.status.busy = true) (hj : s.j.toNat < 64) :
    engineTurn s = .next (roundStep ⟨s.j.toNat, hj⟩ s) := by
  simp [engineTurn, engineStepEnabled, hb, Nat.le_of_lt_succ hj, exec, execRound_enabled hb hj]

theorem engineTurn_final {s : State} (hb : s.status.busy = true) (hj : s.j.toNat = 64) :
    engineTurn s = .next (finalStep s) := by
  simp [engineTurn, engineStepEnabled, hb, hj, exec, execFinal_enabled hb hj]

theorem engineTurn_range {s : State} (hb : s.status.busy = true) (hj : 64 < s.j.toNat) :
    engineTurn s = .fault .counterOutOfRange := by
  simp [engineTurn, engineStepEnabled, hb, show ¬ s.j.toNat ≤ 63 by omega, show ¬ s.j.toNat = 64 by omega]

theorem hostTurn_nil {s : State} (h : s.program = []) : hostTurn s = .next s := by simp [hostTurn, h]

theorem HostItem.words_eq_none {item : HostItem} : item.words = none ↔ item = .nextMessage := by
  cases item <;> simp [HostItem.words]

theorem hostTurn_mark {s : State} {rest : List HostItem} (h : s.program = .nextMessage :: rest) :
    hostTurn s = .next (dropItem rest s) := by
  simp [hostTurn, h, HostItem.words]

theorem hostTurn_cons {s : State} {item : HostItem} {cmd wdata : Word} {rest : List HostItem} (h : s.program = item :: rest)
    (hw : item.words = some (cmd, wdata)) (hf : s.faulted = false) {u : State}
    (hu : issueCommand cmd wdata (clearRsp (dropItem rest s)) = .next u) :
    hostTurn s = .next (receive item u) := by
  simp [hostTurn, h, hw, acceptCommand, hf, hu]

theorem hostTurn_faulted {s : State} {item : HostItem} {cmd wdata : Word} {rest : List HostItem} (h : s.program = item :: rest)
    (hw : item.words = some (cmd, wdata)) (hf : s.faulted = true) : hostTurn s = .fault .modelFaulted := by
  simp [hostTurn, h, hw, acceptCommand, hf]

theorem step_host {s : State} (h : nextTurn s = .host) : step s = hostTurn (drawTurn s) := by simp [step, act, h]

theorem step_engine {s : State} (h : nextTurn s = .engine) : step s = engineTurn (drawTurn s) := by
  simp [step, act, h]

theorem step_reset {s : State} (h : nextTurn s = .reset) : step s = .next (resetEngine (drawTurn s)) := by
  simp [step, act, h]

theorem nextTurn_cons {s : State} {t : Turn} {ts : List Turn} (h : s.turns = t :: ts) : nextTurn s = t := by
  simp [nextTurn, h]

/-- A step that answers a next state answers one of those of `StepResult`. -/
theorem step_cases {s t : State} (h : step s = .next t) : StepResult s t := by
  unfold step act at h
  cases ht : nextTurn s with
  | reset =>
    simp only [ht, Outcome.next.injEq] at h
    exact h ▸ .reset ht
  | engine =>
    simp only [ht] at h
    cases hb : s.status.busy with
    | false =>
      rw [engineTurn_idle (by simpa using hb), Outcome.next.injEq] at h
      exact h ▸ .engineIdle ht hb
    | true =>
      rcases Nat.lt_trichotomy s.j.toNat 64 with hj | hj | hj
      · rw [engineTurn_round (by simpa using hb) (by simpa using hj), Outcome.next.injEq] at h
        exact h ▸ .engineRound ht hb hj
      · rw [engineTurn_final (by simpa using hb) (by simpa using hj), Outcome.next.injEq] at h
        exact h ▸ .engineFinal ht hb hj
      · rw [engineTurn_range (by simpa using hb) (by simpa using hj)] at h
        cases h
  | host =>
    simp only [ht] at h
    cases hp : s.program with
    | nil =>
      rw [hostTurn_nil (by simpa using hp), Outcome.next.injEq] at h
      exact h ▸ .hostIdle ht hp
    | cons item rest =>
      cases hw : item.words with
      | none =>
        obtain rfl := HostItem.words_eq_none.mp hw
        rw [hostTurn_mark (s := drawTurn s) (by simpa using hp), Outcome.next.injEq] at h
        exact h ▸ .hostMark ht hp
      | some w =>
        obtain ⟨cmd, wdata⟩ := w
        cases hf : s.faulted with
        | true =>
          rw [hostTurn_faulted (s := drawTurn s) (by simpa using hp) hw (by simpa using hf)] at h
          cases h
        | false =>
          obtain ⟨u, hu, -⟩ := issueCommand_next cmd wdata (clearRsp (dropItem rest (drawTurn s)))
          rw [hostTurn_cons (s := drawTurn s) (by simpa using hp) hw (by simpa using hf) hu, Outcome.next.injEq] at h
          exact h ▸ .hostCommand ht hp hw hf hu

/-- A command changes neither the agents' inputs nor the free-value counter. -/
theorem CommandResult.inputs {s t : State} {i : Instr} (h : CommandResult s i t) :
    t.program = s.program ∧ t.received = s.received ∧ t.turns = s.turns ∧ t.resets = s.resets := by
  cases h <;> simp

theorem nextWords_cons {s : State} {item : HostItem} {rest : List HostItem} (h : s.program = item :: rest) :
    nextWords s = item.words := by simp [nextWords, h]

theorem nextCommand_words {s : State} {cmd wdata : Word} (h : nextWords s = some (cmd, wdata)) :
    nextCommand s = decode cmd wdata := by simp [nextCommand, h]

theorem nextIsIllegal_words {s : State} {cmd wdata : Word} (h : nextWords s = some (cmd, wdata)) :
    nextIsIllegal s ↔ decode cmd wdata = none := by simp [nextIsIllegal, h]

/-- What a host turn's next state can be, with the command's own result: nothing to issue, a message boundary, or a command. -/
theorem step_host_cases {s t : State} (h : step s = .next t) (ht : nextTurn s = .host) :
    (s.program = [] ∧ t = drawTurn s) ∨
    (∃ rest, s.program = .nextMessage :: rest ∧ t = dropItem rest (drawTurn s)) ∨
    ∃ item cmd wdata rest u, s.program = item :: rest ∧ item.words = some (cmd, wdata) ∧ nextWords s = some (cmd, wdata) ∧
      s.faulted = false ∧ t = receive item u ∧
      ((decode cmd wdata = none ∧ nextCommand s = none ∧ nextIsIllegal s ∧
          u = reject .illegalCmd (clearRsp (dropItem rest (drawTurn s)))) ∨
        ∃ i, decode cmd wdata = some i ∧ nextCommand s = some i ∧ ¬ nextIsIllegal s ∧ i.wellFormed = true ∧
          CommandResult (clearRsp (dropItem rest (drawTurn s))) i u) := by
  cases step_cases h with
  | hostIdle _ hp => exact .inl ⟨hp, rfl⟩
  | hostMark _ hp => exact .inr (.inl ⟨_, hp, rfl⟩)
  | @hostCommand item cmd wdata rest u _ hp hw hf hu =>
    obtain ⟨v, hv, hc⟩ := issueCommand_next cmd wdata (clearRsp (dropItem rest (drawTurn s)))
    obtain rfl : u = v := by simpa using hu.symm.trans hv
    have hn : nextWords s = some (cmd, wdata) := (nextWords_cons hp).trans hw
    refine .inr (.inr ⟨item, cmd, wdata, rest, u, hp, hw, hn, hf, rfl, ?_⟩)
    rcases hc with ⟨hd, rfl⟩ | ⟨i, hd, hwf, hr⟩
    · exact .inl ⟨hd, (nextCommand_words hn).trans hd, (nextIsIllegal_words hn).mpr hd, rfl⟩
    · exact .inr ⟨i, hd, (nextCommand_words hn).trans hd, by simp [nextIsIllegal_words hn, hd], hwf, hr⟩
  | engineIdle h' => simp [ht] at h'
  | engineRound h' => simp [ht] at h'
  | engineFinal h' => simp [ht] at h'
  | reset h' => simp [ht] at h'

theorem engineStepEnabled_round {s : State} (hb : s.status.busy = true) (hj : s.j.toNat < 64) :
    engineStepEnabled s = some .round := by
  simp [engineStepEnabled, hb, Nat.le_of_lt_succ hj]

theorem engineStepEnabled_final {s : State} (hb : s.status.busy = true) (hj : s.j.toNat = 64) :
    engineStepEnabled s = some .final := by
  simp [engineStepEnabled, hb, hj]

theorem engineStepEnabled_idle {s : State} (hb : s.status.busy = false) : engineStepEnabled s = none := by
  simp [engineStepEnabled, hb]

/-! The reference functions, one step of each recursion (never unfold the literals 48 and 64 of schedule and compress) -/

theorem scheduleUpTo_succ (M : Block) (n : Nat) (h : 16 + n < 64) :
    scheduleUpTo M (n + 1) = expand (scheduleUpTo M n) ⟨16 + n, h⟩ := dif_pos h

theorem rounds_succ (W : Schedule) (r : Working) (n : Nat) (h : n < 64) :
    rounds W r (n + 1) = (rounds W r n).round (K ⟨n, h⟩) W[n] := dif_pos h

/-- A word of the schedule, once computed, is not changed by the later ones (R87: "written exactly once per compression"). -/
theorem scheduleUpTo_get {M : Block} {n m : Nat} (h : n ≤ m) (k : Fin 64) (hk : k.val < 16 + n) :
    (scheduleUpTo M m)[k.val] = (scheduleUpTo M n)[k.val] := by
  induction m with
  | zero =>
    obtain rfl : n = 0 := by omega
    rfl
  | succ m ih =>
    rcases Nat.eq_or_lt_of_le h with rfl | h'
    · rfl
    · rw [← ih (by omega)]
      by_cases h64 : 16 + m < 64
      · rw [scheduleUpTo_succ M m h64]
        exact expand_get_ne _ _ _ (fun e => by have := congrArg Fin.val e; simp at this; omega)
      · rw [show scheduleUpTo M (m + 1) = scheduleUpTo M m from dif_neg h64]

/-! STATUS -/

/-- rdata[0] of an RDSTAT is BUSY. -/
theorem Status.word_busy (s : Status) : s.word.getLsbD 0 = s.busy := by
  rcases s with ⟨b, d, e, c⟩
  cases b <;> cases d <;> cases e <;> cases c <;> rfl

end Sys2Proof.Machine
end

