-- ==== Sys2Proof/Laws/PerInstr.lean ====
section
/-! SUPPORT. The families of per-instruction statements: one lemma per constructor of Instr. -/

/-- The fields of an instruction's encoding (30_encoding.md R52, R60): the command word carries the opcode, a zero RSV field and
the index operand, the data word the word operand; and exactly the commands have an encoding. -/
def Sys2Proof.Laws.EncodedFields.Statement (i : Sys2Proof.Instr) : Prop :=
  (i.isCommand = true ↔ (Sys2Proof.encode i).isSome = true) ∧
  ∀ cmd wdata, Sys2Proof.encode i = some (cmd, wdata) →
    some (Sys2Proof.opField cmd) = i.opcode ∧ Sys2Proof.rsvField cmd = 0 ∧
    Sys2Proof.idxField cmd = i.idxOperand ∧ wdata = i.wdataOperand

/-- A command word made from the fields of an instruction has them. -/
theorem Sys2Proof.Laws.EncodedFields.of_opcode {i : Sys2Proof.Instr} {op : BitVec 4} (hc : i.isCommand = true)
    (h : i.opcode = some op) : Sys2Proof.Laws.EncodedFields.Statement i := by
  refine ⟨by simp [hc, Sys2Proof.encode, h], fun cmd wdata he => ?_⟩
  simp only [Sys2Proof.encode, h, Option.some.injEq, Prod.mk.injEq] at he
  obtain ⟨rfl, rfl⟩ := he
  simp [h]

/-- An engine step has no encoding. -/
theorem Sys2Proof.Laws.EncodedFields.of_none {i : Sys2Proof.Instr} (hc : i.isCommand = false) (h : i.opcode = none) :
    Sys2Proof.Laws.EncodedFields.Statement i := by
  refine ⟨by simp [hc, Sys2Proof.encode, h], fun cmd wdata he => ?_⟩
  simp [Sys2Proof.encode, h] at he

theorem Sys2Proof.Laws.EncodedFields.nop : Sys2Proof.Laws.EncodedFields.Statement .nop :=
  Sys2Proof.Laws.EncodedFields.of_opcode rfl rfl
theorem Sys2Proof.Laws.EncodedFields.init : Sys2Proof.Laws.EncodedFields.Statement .init :=
  Sys2Proof.Laws.EncodedFields.of_opcode rfl rfl
theorem Sys2Proof.Laws.EncodedFields.wrm (idx : BitVec 4) (word : Sys2Proof.Word) :
    Sys2Proof.Laws.EncodedFields.Statement (.wrm idx word) :=
  Sys2Proof.Laws.EncodedFields.of_opcode rfl rfl
theorem Sys2Proof.Laws.EncodedFields.wrh (idx : BitVec 4) (word : Sys2Proof.Word) :
    Sys2Proof.Laws.EncodedFields.Statement (.wrh idx word) :=
  Sys2Proof.Laws.EncodedFields.of_opcode rfl rfl
theorem Sys2Proof.Laws.EncodedFields.rdh (idx : BitVec 4) : Sys2Proof.Laws.EncodedFields.Statement (.rdh idx) :=
  Sys2Proof.Laws.EncodedFields.of_opcode rfl rfl
theorem Sys2Proof.Laws.EncodedFields.start : Sys2Proof.Laws.EncodedFields.Statement .start :=
  Sys2Proof.Laws.EncodedFields.of_opcode rfl rfl
theorem Sys2Proof.Laws.EncodedFields.rdstat : Sys2Proof.Laws.EncodedFields.Statement .rdstat :=
  Sys2Proof.Laws.EncodedFields.of_opcode rfl rfl
theorem Sys2Proof.Laws.EncodedFields.round : Sys2Proof.Laws.EncodedFields.Statement .round :=
  Sys2Proof.Laws.EncodedFields.of_none rfl rfl
theorem Sys2Proof.Laws.EncodedFields.final : Sys2Proof.Laws.EncodedFields.Statement .final :=
  Sys2Proof.Laws.EncodedFields.of_none rfl rfl
end

