-- ==== Sys2Proof/Laws/Protocol.lean ====
section
/-! SUPPORT. The host protocol's monitor, one step of each recursion, and what it sees of a step. -/

namespace Sys2Proof.Machine

open Host (Outcome)

/-! The monitor -/

@[simp] theorem Protocol.keeps_nil (p : Protocol) (c : Clause) : p.keeps c [] = true := rfl

theorem Protocol.keeps_cons (p : Protocol) (c : Clause) (e : HostEvent) (es : List HostEvent) :
    p.keeps c (e :: es) = true ↔ p.breaks c e = false ∧ (p.next e).keeps c es = true := by
  simp [Protocol.keeps]

theorem Protocol.follows_cons (p : Protocol) (e : HostEvent) (es : List HostEvent) :
    p.follows (e :: es) ↔ (∀ c, p.breaks c e = false) ∧ (p.next e).follows es := by
  simp [Protocol.follows, Protocol.keeps_cons, forall_and]

@[simp] theorem Protocol.follows_nil (p : Protocol) : p.follows [] := fun _ => rfl

@[simp] theorem Protocol.after_nil (p : Protocol) : p.after [] = p := rfl

@[simp] theorem Protocol.after_cons (p : Protocol) (e : HostEvent) (es : List HostEvent) :
    p.after (e :: es) = (p.next e).after es := rfl

theorem Protocol.after_append (p : Protocol) (es fs : List HostEvent) : p.after (es ++ fs) = (p.after es).after fs :=
  List.foldl_append

theorem Protocol.keeps_append (p : Protocol) (c : Clause) (es fs : List HostEvent) :
    p.keeps c (es ++ fs) = true ↔ p.keeps c es = true ∧ (p.after es).keeps c fs = true := by
  induction es generalizing p with
  | nil => simp
  | cons e es ih => simp [Protocol.keeps_cons, ih, and_assoc]

theorem Protocol.follows_append (p : Protocol) (es fs : List HostEvent) :
    p.follows (es ++ fs) ↔ p.follows es ∧ (p.after es).follows fs := by
  simp [Protocol.follows, Protocol.keeps_append, forall_and]

theorem Protocol.next_legal (p : Protocol) {cmd wdata rdata : Word} {i : Instr} (h : decode cmd wdata = some i) :
    p.next (.issued cmd wdata rdata) = p.afterCommand i rdata := by simp [Protocol.next, h]

theorem Protocol.next_illegal (p : Protocol) {cmd wdata rdata : Word} (h : decode cmd wdata = none) :
    p.next (.issued cmd wdata rdata) = p := by simp [Protocol.next, h]

@[simp] theorem Protocol.next_reset (p : Protocol) : p.next .reset = .afterReset := rfl

@[simp] theorem Protocol.next_nextMessage_waiting (p : Protocol) : (p.next .nextMessage).waiting = p.waiting := rfl

@[simp] theorem Protocol.next_nextMessage_written (p : Protocol) : (p.next .nextMessage).written = p.written := rfl

/-- No clause is broken by a word: it is legal, NOP or RDSTAT where a poll is owed, and a START has its M and H words. -/
theorem Protocol.wordBreaks_none (p : Protocol) (cmd wdata : Word) :
    (∀ c, p.wordBreaks c cmd wdata = false) ↔
      ∃ i, decode cmd wdata = some i ∧ (p.waiting = true → i.legalWhileBusy = true) ∧
        (i = .start → p.written.toList.all id = true ∧ p.chained.toList.all id = true) := by
  constructor
  · intro h
    have h1 := h .p1
    have h2 := h .p2
    have h3 := h .p3
    have h4 := h .p4
    cases hd : decode cmd wdata with
    | none => simp [Protocol.wordBreaks, hd] at h4
    | some i =>
      simp only [Protocol.wordBreaks, hd] at h1 h2 h3
      exact ⟨i, rfl, fun hw => by simpa [hw] using h1, fun hs => by subst hs; simp_all⟩
  · rintro ⟨i, hd, h1, h2⟩ c
    cases c with
    | p1 => cases hw : p.waiting <;> simp_all [Protocol.wordBreaks]
    | p2 => by_cases hs : i = .start <;> simp_all [Protocol.wordBreaks]
    | p3 => by_cases hs : i = .start <;> simp_all [Protocol.wordBreaks]
    | p4 => simp [Protocol.wordBreaks, hd]

/-! What the monitor sees of a step -/

theorem hostEvents_succ {n : Nat} {s t : State} (h : step s = .next t) :
    hostEvents (n + 1) s = (hostEvent s t).toList ++ hostEvents n t := by simp [hostEvents, h]

theorem runSteps_succ {n : Nat} {s t : State} (h : step s = .next t) : runSteps (n + 1) s = runSteps n t := by
  simp [runSteps, h]

theorem hostEvent_engine {s t : State} (h : nextTurn s = .engine) : hostEvent s t = none := by simp [hostEvent, h]

theorem hostEvent_reset {s t : State} (h : nextTurn s = .reset) : hostEvent s t = some .reset := by simp [hostEvent, h]

theorem hostEvent_idle {s t : State} (h : nextTurn s = .host) (hp : s.program = []) : hostEvent s t = none := by
  simp [hostEvent, h, hp]

theorem hostEvent_mark {s t : State} {rest : List HostItem} (h : nextTurn s = .host) (hp : s.program = .nextMessage :: rest) :
    hostEvent s t = some .nextMessage := by
  simp [hostEvent, h, hp, HostItem.words]

theorem hostEvent_command {s t : State} {item : HostItem} {rest : List HostItem} {cmd wdata : Word} (h : nextTurn s = .host)
    (hp : s.program = item :: rest) (hw : item.words = some (cmd, wdata)) :
    hostEvent s t = some (.issued cmd wdata (t.rsp.getD 0)) := by
  simp [hostEvent, h, hp, hw]

end Sys2Proof.Machine
end

