-- ==== Sys2Proof/Tests/Slice0.lean ====
section
/-! SUPPORT. Tests on the spec's own examples and vectors (95_test_vectors.md and the rules' Example lines), and for each obligation
with hypotheses a concrete input that meets them. -/

namespace Sys2Proof.Tests

open Sys2Proof Sys2Proof.Machine
open Host (Outcome)

/-! Small states -/

/-- The padded block of "abc" (95_test_vectors.md section 3). -/
def abcBlock : Block := #v[0x61626380, 0, 0, 0, 0, 0, 0, 0, 0, 0, 0, 0, 0, 0, 0, 0x18]

/-- Idle after reset and the sixteen WRM of the "abc" block. -/
def ready : State := { State.reset with M := abcBlock, Mvalid := Vector.replicate 16 true }

/-- The same once a compression is done. -/
def finished : State := { ready with status := { Status.zero with done := true } }

/-- Running with the given counter and working registers; the schedule holds the block and the words 16, 17 and 18 of section 3. -/
def running (j : BitVec 7) (r : Working) : State :=
  { ready with
    status := { Status.zero with busy := true }
    j := j
    work := r
    W := (((loadSchedule (Vector.replicate 64 0) abcBlock).set 16 0x61626380).set 17 0x000F0000).set 18 0x7DA86405 }

/-- All M words written but the last. -/
def lastUnwritten : State := { ready with Mvalid := (Vector.replicate 16 true).set 15 false }

/-- The state with a host turn and one command. -/
def withCommand (s : State) (cmd wdata : Word) : State :=
  { s with turns := [.host], program := [.command cmd wdata] }

/-- The state a step or an instruction gives, if it gives one. -/
def nextOf : Outcome State Fault Refusal → Option State
  | .next s => some s
  | .fault _ => none
  | .refused _ => none

/-! WellFormed: each check refuses an ill-formed term -/

theorem test_wellFormed_wrh_8 : (Instr.wrh 8 0).wellFormed = false := by decide
theorem test_wellFormed_wrh_7 : (Instr.wrh 7 0).wellFormed = true := by decide
theorem test_wellFormed_rdh_15 : (Instr.rdh 15).wellFormed = false := by decide
theorem test_wellFormed_wrm_15 : (Instr.wrm 15 0).wellFormed = true := by decide

/-! Decoding: each word bit by bit, OP, RSV, IDX (30_encoding.md R52, R53) -/

theorem test_decode_nop : decode 0b0000_000000000000000000000000_0000 0xDEADBEEF = some .nop := by decide
theorem test_decode_init : decode 0b0001_000000000000000000000000_0000 0xDEADBEEF = some .init := by decide
theorem test_decode_wrm : decode 0b0010_000000000000000000000000_1111 0x18 = some (.wrm 15 0x18) := by decide
theorem test_decode_wrh : decode 0b0011_000000000000000000000000_0110 0x85E655D6 = some (.wrh 6 0x85E655D6) := by decide
theorem test_decode_rdh : decode 0b0100_000000000000000000000000_0101 0xDEADBEEF = some (.rdh 5) := by decide
theorem test_decode_start : decode 0b0101_000000000000000000000000_0000 0xDEADBEEF = some .start := by decide
theorem test_decode_rdstat : decode 0b0110_000000000000000000000000_0000 0xDEADBEEF = some .rdstat := by decide

/-- The illegal rows of 95_test_vectors.md section 4.1: index where there is none, IDX[3] of WRH and RDH, reserved OP, RSV. -/
theorem test_decode_illegal :
    [0x00000001, 0x1000000F, 0x30000008, 0x4000000F, 0x50000001, 0x60000001, 0x70000000, 0xF0000000, 0x20000010, 0x28000000].all
      (fun cmd => decode cmd 0 = none) = true := by decide

theorem test_encode_wrh : encode (.wrh 7 0x12345678) = some (0x30000007, 0x12345678) := by decide
theorem test_encode_round : encode .round = none := by decide
theorem test_decodeTableWord_short : decodeTableWord 32 0x20000003 = some (.wrm 3 0) := by decide
theorem test_decodeTableWord_wdata : decodeTableWord 64 0xDEADBEEF30000002 = some (.wrh 2 0xDEADBEEF) := by decide

/-! The datapath (95_test_vectors.md section 2) -/

theorem test_rotr : [2, 6, 7, 11, 13, 17, 18, 19, 22, 25].map (ROTR 0x12345678) =
    [0x048D159E, 0xE048D159, 0xF02468AC, 0xCF02468A, 0xB3C091A2, 0x2B3C091A, 0x159E048D, 0x8ACF0246, 0xD159E048, 0x1A2B3C09] := by
  decide
theorem test_shr : (SHR 0x80000000 3, SHR 0xFFFFFFFF 10) = (0x10000000, 0x003FFFFF) := by decide
theorem test_sigmas : (BSIG0 0x12345678, BSIG1 0x12345678, SSIG0 0x12345678, SSIG1 0x12345678) =
    (0x66146474, 0x3561ABDA, 0xE7FCE6EE, 0xA1F78649) := by decide
theorem test_ch_maj : (CH 0xFF00FF00 0x0F0F0F0F 0x33333333, MAJ 0xFF00FF00 0x0F0F0F0F 0x33333333) =
    (0x0F330F33, 0x3F033F03) := by decide
theorem test_adders : (ADD32 0x12345678 0x9ABCDEF0, SUM (List.replicate 4 0xFFFFFFFF), SUM (List.replicate 5 0xFFFFFFFF)) =
    (0xACF13568, 0xFFFFFFFC, 0xFFFFFFFB) := by decide
theorem test_kRom_reads : (K 0, K 15, K 16, K 63) = (0x428A2F98, 0xC19BF174, 0xE49B69C1, 0xC67178F2) := by decide

/-- The first 64 primes. -/
def primes : List Nat :=
  [2, 3, 5, 7, 11, 13, 17, 19, 23, 29, 31, 37, 41, 43, 47, 53, 59, 61, 67, 71, 73, 79, 83, 89, 97, 101, 103, 107, 109, 113, 127, 131] ++
  [137, 139, 149, 151, 157, 163, 167, 173, 179, 181, 191, 193, 197, 199, 211, 223, 227, 229, 233, 239, 241, 251, 257, 263, 269, 271,
   277, 281, 283, 293, 307, 311]

/-- R82: K[j] is the first 32 bits of the fractional part of the cube root of the (j+1)-th prime; the integer part is below 7. -/
theorem test_kRom_cube_roots : (List.finRange 64).all (fun j => (List.range 7).any fun r =>
    let x := r * 2 ^ 32 + (K j).toNat
    x ^ 3 ≤ primes.getD j.val 0 * 2 ^ 96 && primes.getD j.val 0 * 2 ^ 96 < (x + 1) ^ 3) = true := by decide +kernel

/-- R85: IV[i] is the first 32 bits of the fractional part of the square root of the (i+1)-th prime. -/
theorem test_ivRom_square_roots : (List.finRange 8).all (fun i => (List.range 5).any fun r =>
    let x := r * 2 ^ 32 + (IV[i.val]).toNat
    x ^ 2 ≤ primes.getD i.val 0 * 2 ^ 64 && primes.getD i.val 0 * 2 ^ 64 < (x + 1) ^ 2) = true := by decide +kernel

/-! The instructions, one step each -/

/-- R98: NOP is legal while busy. -/
theorem test_nop_busy : nextOf (exec .nop (running 3 Working.zero)) = some { running 3 Working.zero with rsp := some 0 } := by decide

/-- R99, Example: INIT restores IV and clears DONE. -/
theorem test_init : (nextOf (exec .init { finished with H := Vector.replicate 8 0 })).any
    (fun t => t.H[0] = 0x6A09E667 ∧ t.H[7] = 0x5BE0CD19 ∧ t.status.word = 0 ∧ t.M = abcBlock) = true := by decide

/-- R100, Example: `wrm 15, 0x00000018`. -/
theorem test_wrm : (nextOf (step (State.reset.withFetchWord 64 0x000000182000000F))).any
    (fun t => t.M[15] = 0x18 ∧ t.Mvalid[15] = true ∧ t.Mvalid[14] = false ∧ t.received = [0]) = true := by decide

/-- R100, R106: WRM while busy is dropped and recorded. -/
theorem test_wrm_busy : (nextOf (exec (.wrm 0 0xDEADBEEF) (running 3 Working.zero))).any
    (fun t => t.M[0] = 0x61626380 ∧ t.status.word = 0x25 ∧ t.rsp = some 0) = true := by decide

/-- R101, Example: `wrh 0, 0x85E655D6`. -/
theorem test_wrh : (nextOf (step (finished.withFetchWord 64 0x85E655D630000000))).any
    (fun t => t.H[0] = 0x85E655D6 ∧ t.H[1] = 0xBB67AE85 ∧ t.status.word = 0) = true := by decide

/-- R105, corner cases: WRH with IDX = 8 writes no H entry. -/
theorem test_wrh_index_8 : (nextOf (step (State.reset.withFetchWord 64 0xDEADBEEF30000008))).any
    (fun t => t.H = IV ∧ t.status.word = 0x14 ∧ t.received = [0]) = true := by decide

/-- R102: after reset RDH returns IV[idx]. -/
theorem test_rdh : (nextOf (step (State.reset.withFetchWord 32 0x40000003))).any (fun t => t.received = [0xA54FF53A]) = true := by
  decide

/-- R102: RDH while busy returns 0, not the old H. -/
theorem test_rdh_busy : (nextOf (exec (.rdh 3) (running 3 Working.zero))).any
    (fun t => t.rsp = some 0 ∧ t.status.word = 0x25) = true := by decide

/-- R92, Example: LOAD of the "abc" block. -/
theorem test_start : (nextOf (step (ready.withFetchWord 32 0x50000000))).any
    (fun t => t.work = Working.ofChain IV ∧ t.W[0] = 0x61626380 ∧ t.W[15] = 0x18 ∧ t.j = 0 ∧ t.status.word = 1 ∧ t.H = IV) =
      true := by decide

/-- R103: START with an M word unwritten is the model fault. -/
theorem test_start_unwritten : nextOf (exec .start lastUnwritten) = some { lastUnwritten with faulted := true } := by decide

/-- R104, Example: after one busy violation during a compression RDSTAT returns 0x00000025. -/
theorem test_rdstat : ((nextOf (exec .start (running 3 Working.zero))).bind fun t => nextOf (exec .rdstat t)).any
    (fun t => t.rsp = some 0x25 ∧ t.status.word = 0x25) = true := by decide

/-- Section 3, row t = 0. -/
theorem test_round_0 : (nextOf (exec .round (running 0 (Working.ofChain IV)))).any
    (fun t => t.work = ⟨0x5D6AEBCD, 0x6A09E667, 0xBB67AE85, 0x3C6EF372, 0xFA2A4622, 0x510E527F, 0x9B05688C, 0x1F83D9AB⟩ ∧ t.j = 1) =
      true := by decide

/-- Section 3, rows t = 18 and 19: EXPAND writes W[19], and the round uses it. -/
theorem test_round_19 : (nextOf (exec .round (running 19
      ⟨0xFE777BBF, 0xC2FBD9D1, 0x21DA9A9B, 0xB0FA238E, 0xCC899961, 0x846EE454, 0x8034229C, 0x07590DCD⟩))).any
    (fun t => t.W[19] = 0x600003C6 ∧ t.W[18] = 0x7DA86405 ∧ t.work.a = 0xE1F20C33 ∧ t.work.e = 0xB0638179) = true := by decide

/-- Section 3, row t = 63 and the FINAL after it. -/
theorem test_final : (nextOf (exec .final (running 64
      ⟨0x506E3058, 0xD39A2165, 0x04D24D6C, 0xB85E2CE9, 0x5EF50F24, 0xFB121210, 0x948D25B6, 0x961F4894⟩))).any
    (fun t => t.H = #v[0xBA7816BF, 0x8F01CFEA, 0x414140DE, 0x5DAE2223, 0xB00361A3, 0x96177A9C, 0xB410FF61, 0xF20015AD] ∧
      t.status.word = 2) = true := by decide

/-- FINAL is not ROUND 63's successor early: at j = 63 it is not enabled. -/
theorem test_final_early : exec .final (running 63 Working.zero) = .fault .engineStepNotEnabled := by rfl

/-- R105, Example: `.cmd 0x70000000, 0` on a fresh engine; R121: the same while busy is still ILLEGAL_CMD. -/
theorem test_illegal_fresh : (nextOf (step (State.reset.withFetchWord 32 0x70000000))).any (fun t => t.status.word = 0x14) = true := by
  decide
theorem test_illegal_busy : (nextOf (step ((running 3 Working.zero).withFetchWord 32 0x70000000))).any
    (fun t => t.status.word = 0x15 ∧ t.j = 3) = true := by decide

/-- 93_implementation_defined.md item 23: a faulted machine takes no further command. -/
theorem test_faulted_stuck : step ({ lastUnwritten with faulted := true }.withFetchWord 32 0x60000000) = .fault .modelFaulted := by
  rfl

/-! The host's duties -/

/-- R109 and R112 on "abc": section 3's block. -/
theorem test_pad_parse : (pad [0x61, 0x62, 0x63]).map parseBlocks = some [abcBlock] := by decide

/-- The boundary of the second block: 55 bytes pad to 64, 56 bytes to 128 (R110). -/
theorem test_pad_boundary : (padCount 55, padCount 56, padCount 0, padCount 63, padCount 64) = (9, 72, 64, 65, 64) := by decide

theorem test_emit : be32 0xBA7816BF = [0xBA, 0x78, 0x16, 0xBF] := by decide

/-- R62: `compress` is sixteen WRM, START and `wait`. -/
theorem test_assemble_compress : (assemble (.compress abcBlock)).any
    (fun items => items.length = 18 ∧ items.getLast? = some .wait ∧ items[15]? = some (.command 0x2000000F 0x18) ∧
      items[16]? = some (.command 0x50000000 0)) = true := by decide

theorem test_assemble_range : (assemble (.wrm 16 0), assemble (.wrh 8 0), assemble (.rdh 8)) = (none, none, none) := by decide

/-! The hypotheses of each obligation are met -/

theorem witness_DecodeUndoesEncode : (Instr.wrh 7 0xFFFFFFFF).wellFormed = true ∧ (Instr.wrh 7 0xFFFFFFFF).isCommand = true := by
  decide

theorem witness_EncodeUndoesDecode : decode 0x2000000F 0x18 = some (.wrm 15 0x18) := by decide

/-- One boundary word of each kind of R56: OP 0x7 and 0xF; RSV bit 4 and bit 27; IDX of NOP, INIT, START, RDSTAT; IDX[3] of WRH, RDH. -/
theorem witness_IllegalWordsAreTheFourKinds :
    [0x70000000, 0xF0000000, 0x20000010, 0x28000000, 0x00000001, 0x1000000F, 0x50000001, 0x6000000F, 0x30000008, 0x4000000F].all
      (fun cmd => decode cmd 0 = none) = true := by decide

theorem witness_UnusedWdataIsIgnored :
    (∀ i, decode 0x40000007 1 = some i → i.usesWdata = false) ∧ (∀ i, decode 0x30000008 1 = some i → i.usesWdata = false) :=
  ⟨fun i h => by
      obtain rfl := Option.some.inj ((show decode 0x40000007 1 = some (.rdh 7) by decide).symm.trans h)
      rfl,
    fun i h => absurd (h.symm.trans (show decode 0x30000008 1 = none by decide)) (by simp)⟩

theorem witness_StepRunsTheDecodedCommand :
    (withCommand ready 0x50000000 0).turns = [.host] ∧ (withCommand ready 0x50000000 0).program = [.command 0x50000000 0] ∧
    (withCommand ready 0x50000000 0).faulted = false ∧ decode 0x50000000 0 = some .start := by decide

theorem witness_StepRecordsAnIllegalWord :
    (withCommand (running 3 Working.zero) 0x70000000 0).turns = [.host] ∧
    (withCommand (running 3 Working.zero) 0x70000000 0).program = [.command 0x70000000 0] ∧
    (withCommand (running 3 Working.zero) 0x70000000 0).faulted = false ∧ decode 0x70000000 0 = none := by decide

/-- A `wait` that goes on, and one that ends. -/
theorem witness_WaitPollsWhileBusy :
    [running 64 Working.zero, finished].all (fun s =>
      let s' := { s with turns := [Turn.host], program := [.wait] }
      s'.turns = [.host] ∧ s'.program = [.wait] ∧ s'.faulted = false) = true := by decide

/-- Its four clauses: idle; j = 0 and 63; j = 64; j = 65 and 127. -/
theorem witness_EngineTurnTakesTheEnabledStep :
    { ready with turns := [.engine] }.turns = [.engine] ∧ ready.status.busy = false ∧
    [0, 63, 64, 65, 127].all (fun j => (running j Working.zero).status.busy) = true ∧
    (running 0 Working.zero).j.toNat ≤ 63 ∧ (running 63 Working.zero).j.toNat ≤ 63 ∧ (running 64 Working.zero).j.toNat = 64 ∧
    64 < (running 65 Working.zero).j.toNat ∧ 64 < (running 127 Working.zero).j.toNat := by decide

theorem witness_ResetTurnEffect : { running 3 Working.zero with turns := [.reset] }.turns = [.reset] := by decide

theorem witness_IdleStateSurvives : ready.status.busy = false ∧ ready.program = [] ∧ nextTurn ready ≠ .reset := by decide

/-- The word clauses of the completion statements: for each OP a word with it that is not the command's. -/
theorem witness_illegal_words_by_opcode :
    (opField 0x00000001 = 0x0 ∧ opField 0x18000000 = 0x1 ∧ opField 0x50000008 = 0x5 ∧ opField 0x60000010 = 0x6) ∧
    (opField 0x20000010 = 0x2 ∧ rsvField 0x20000010 ≠ 0) ∧ (opField 0x38000000 = 0x3 ∧ rsvField 0x38000000 ≠ 0) ∧
    (opField 0x4000000F = 0x4 ∧ (idxField 0x4000000F).getLsbD 3 = true) := by decide

theorem witness_InitCompletes : finished.status.busy = false ∧ (running 0 Working.zero).status.busy = true := by decide

/-- WrmCompletes, WrhCompletes and RdhCompletes: idle and busy, and the indices where the clauses meet. -/
theorem witness_WrmCompletes : decode (0x20000000 ||| (15 : BitVec 4).setWidth 32) 0x18 = some (.wrm 15 0x18) ∧
    finished.status.busy = false ∧ (running 0 Working.zero).status.busy = true := by decide
theorem witness_WrhCompletes : (0 : BitVec 4).toNat < 8 ∧ (7 : BitVec 4).toNat < 8 ∧ 8 ≤ (8 : BitVec 4).toNat ∧
    8 ≤ (15 : BitVec 4).toNat ∧ finished.status.busy = false ∧ (running 0 Working.zero).status.busy = true ∧
    ∀ i : Fin 8, i ∈ (List.finRange 8).reverse := by decide
theorem witness_RdhCompletes : (0 : BitVec 4).toNat < 8 ∧ (7 : BitVec 4).toNat < 8 ∧ 8 ≤ (8 : BitVec 4).toNat ∧
    8 ≤ (15 : BitVec 4).toNat ∧ finished.status.busy = false ∧ (running 64 Working.zero).status.busy = true := by decide

theorem witness_StartCompletes : (ready.status.busy = false ∧ ∀ i : Fin 16, ready.Mvalid[i.val] = true) ∧
    (lastUnwritten.status.busy = false ∧ ¬ ∀ i : Fin 16, lastUnwritten.Mvalid[i.val] = true) ∧
    (running 0 Working.zero).status.busy = true := by decide

theorem witness_StartOnUnwrittenWordsFaultsTheModel : lastUnwritten.status.busy = false ∧ lastUnwritten.Mvalid[15] = false ∧
    State.reset.Mvalid[0] = false := by decide

theorem witness_BusyViolationsAreDropped : (running 63 Working.zero).status.busy = true ∧ (7 : BitVec 4).toNat < 8 := by decide

theorem witness_IndexBeyondHIsIllegal : 8 ≤ (8 : BitVec 4).toNat ∧ 8 ≤ (15 : BitVec 4).toNat := by decide

/-- Its three clauses: an accepted RDH, an RDSTAT, and a START. -/
theorem witness_ResponseOfEveryCommand : ready.faulted = false ∧ ready.status.busy = false ∧
    decode 0x40000007 0 = some (.rdh 7) ∧ decode 0x60000000 0 = some .rdstat ∧ decode 0x50000000 0 = some .start ∧
    [0x40000007, 0x60000000, 0x50000000].all
      (fun cmd => (nextOf (issueCommand cmd 0 ready)).any fun t => !t.faulted) = true := by decide

theorem witness_RepeatedAccessesAreIdempotent : finished.status.busy = false ∧ (Instr.wrh 7 1).wellFormed = true ∧
    (nextOf (exec (.wrh 7 1) finished)).isSome = true ∧ (nextOf (exec (.wrm 15 1) finished)).isSome = true := by decide

/-- RoundCompletes: j = 0, 15, 16 and 63. -/
theorem witness_RoundCompletes : [0, 15, 16, 63].all (fun j =>
    decide ((running j Working.zero).j.toNat < 64) && (running j Working.zero).status.busy) = true ∧
    (running 15 Working.zero).j.toNat < 16 ∧ 16 ≤ (running 16 Working.zero).j.toNat := by decide

theorem witness_FinalCompletes : (running 64 Working.zero).status.busy = true ∧ (running 64 Working.zero).j.toNat = 64 := by decide

theorem witness_EngineStepsStopWhereNotEnabled :
    ¬((running 64 Working.zero).status.busy = true ∧ (running 64 Working.zero).j.toNat ≤ 63) ∧
    ¬(ready.status.busy = true ∧ ready.j.toNat ≤ 63) ∧
    ¬((running 63 Working.zero).status.busy = true ∧ (running 63 Working.zero).j.toNat = 64) := by decide

/-- The steps the STATUS and write-set statements speak of: START from DONE = 1; FINAL; INIT, WRM and an illegal word from idle; a
busy violation; a second error. -/
theorem witness_BusyIsStartToFinal :
    (finished.status.busy = false ∧ (nextOf (step (withCommand finished 0x50000000 0))).any (fun t => t.status.busy) = true) ∧
    ((nextOf (step { running 64 Working.zero with turns := [.engine] })).any (fun t => !t.status.busy) = true) ∧
    ((nextOf (step (withCommand (running 0 Working.zero) 0x50000000 0))).isSome = true ∧
      nextCommand (withCommand (running 0 Working.zero) 0x50000000 0) = some .start) := by decide

theorem witness_DoneIsFinalToNextStart :
    ((running 64 Working.zero).status.done = false ∧
      (nextOf (step { running 64 Working.zero with turns := [.engine] })).any (fun t => t.status.done) = true) ∧
    (finished.status.done = true ∧ [0x50000000, 0x10000000, 0x30000007].all
      (fun cmd => (nextOf (step (withCommand finished cmd 0))).any fun t => !t.status.done && !t.faulted) = true) := by decide

theorem witness_FirstErrorIsKeptUntilReset :
    (nextOf (step (withCommand { ready with status := Status.zero.error .illegalCmd } 0x70000000 0))).isSome = true ∧
    nextTurn (withCommand ready 0x60000000 0) ≠ .reset ∧
    (nextOf (step (withCommand ready 0x60000000 0))).any (fun t => !t.status.err) = true ∧
    nextTurn { ready with turns := [.reset] } = .reset := by decide

theorem witness_ErrorsComeFromHostMisuseOnly : ready.status.err = false ∧
    (nextOf (step (withCommand ready 0x70000000 0))).any (fun t => t.status.err) = true ∧
    nextIsIllegal (withCommand ready 0x70000000 0) ∧
    (nextOf (step (withCommand (running 0 Working.zero) 0x10000000 0))).any (fun t => t.status.err) = true ∧
    ¬ nextIsIllegal (withCommand (running 0 Working.zero) 0x10000000 0) :=
  ⟨by decide, by decide, (nextIsIllegal_words rfl).mpr (by decide), by decide, fun h =>
    absurd ((nextIsIllegal_words (cmd := 0x10000000) (wdata := 0) rfl).mp h) (by decide)⟩

theorem witness_ChainIsWrittenOnlyByInitWrhFinal :
    (nextOf (step (withCommand finished 0x30000007 1))).any (fun t => t.H ≠ finished.H) = true ∧
    (nextOf (step { running 64 (Working.ofChain IV) with turns := [.engine] })).any (fun t => t.H ≠ IV) = true := by decide

theorem witness_MessageIsWrittenOnlyByWrm :
    (nextOf (step (withCommand State.reset 0x2000000F 1))).any
      (fun t => t.M ≠ State.reset.M ∧ t.Mvalid ≠ State.reset.Mvalid) = true ∧
    (nextOf (step { lastUnwritten with faulted := true })).any (fun t => t.faulted) = true ∧
    lastUnwritten.faulted = false ∧
    (nextOf (step (withCommand lastUnwritten 0x50000000 0))).any (fun t => t.faulted) = true := by decide

theorem witness_HiddenRegistersAreWrittenOnlyByTheEngine :
    (nextOf (step { running 0 Working.zero with turns := [.engine] })).any (fun t => t.j ≠ (running 0 Working.zero).j) = true := by
  decide

/-- A running state reached by LOAD. -/
def started : State :=
  { ready with
    status := { Status.zero with busy := true }
    j := 0
    work := Working.ofChain IV
    W := loadSchedule (Vector.replicate 64 0) abcBlock }

theorem started_inv : Inv started where
  counter _ := by decide
  exclusive := by decide
  cause := by decide
  written _ := by decide

theorem ready_inv : Inv ready where
  counter h := by revert h; decide
  exclusive := by decide
  cause := by decide
  written h := by revert h; decide

theorem witness_EngineNeverStopsOrWaits : Inv started ∧ nextTurn started = .engine ∧ started.status.busy = true :=
  ⟨started_inv, rfl, rfl⟩

theorem witness_EveryStepKeepsInv : Inv started ∧ ∃ t, step { started with turns := [.engine] } = .next t := ⟨started_inv, _, rfl⟩

theorem witness_EveryStepKeepsInFlight : InFlight started ∧ started.status.busy = true ∧ ∃ t, step started = .next t := by
  refine ⟨fun _ => ⟨by decide, rfl, fun k hk => ?_⟩, rfl, _, rfl⟩
  have hk' : k.val < 16 := by rcases hk with h | h; exact h; exact absurd h (Nat.not_lt_zero _)
  exact (scheduleUpTo_get (M := abcBlock) (n := 0) (m := 48) (by omega) k hk').symm

theorem witness_CompressionSurvivesAnyInterleaving : ready.status.busy = false ∧ ready.faulted = false ∧
    (∀ i : Fin 16, ready.Mvalid[i.val] = true) ∧ (∃ u, exec .start ready = .next u) ∧
    Turn.reset ∉ Turn.host :: List.replicate 64 .engine ∧ (Turn.host :: List.replicate 64 .engine).count .engine = 64 :=
  ⟨rfl, rfl, by decide, ⟨_, rfl⟩, by decide, by decide⟩

/-- Host and engine turns in alternation are fair. -/
theorem witness_FairRunsFinishTheCompression :
    Fair (fun n => if n % 2 = 0 then .host else .engine) ∧ (∀ n, (fun n => if n % 2 = 0 then Turn.host else .engine) n ≠ .reset) ∧
    Inv started ∧ started.faulted = false ∧ started.status.busy = true :=
  ⟨fun n => ⟨2 * n + 1, by omega, by simp [show (2 * n + 1) % 2 = 1 by omega]⟩, fun n => by dsimp only; split <;> decide,
    started_inv, rfl, rfl⟩

/-- Two idle states with different hidden registers and unwritten M words. -/
theorem witness_UnspecifiedValuesAreUnobservable :
    SameButUnspecified State.reset { State.reset with M := Vector.replicate 16 1, j := 5, work := ⟨1, 2, 3, 4, 5, 6, 7, 8⟩ } where
  H := rfl
  status := rfl
  Mvalid := rfl
  faulted := rfl
  rsp := rfl
  program := rfl
  received := rfl
  turns := rfl
  resets := rfl
  M i h := by revert i; decide
  running h := by cases h

/-- The record of the protocol where every M word is written and H is set. -/
def readyProtocol : Protocol := { waiting := false, written := Vector.replicate 16 true, chained := Vector.replicate 8 true }

/-- R138: a bare RDSTAT that returns BUSY = 0 ends P1, one that returns BUSY = 1 does not. -/
theorem test_protocol_p1 : readyProtocol.keeps .p1 [.issued 0x50000000 0 0, .issued 0x60000000 0 2, .issued 0x40000000 0 0] = true ∧
    readyProtocol.keeps .p1 [.issued 0x50000000 0 0, .issued 0x60000000 0 1, .issued 0x40000000 0 0] = false := by decide

/-- R138: the first START after reset needs its sixteen WRM, no `init`. -/
theorem test_protocol_p2 : Protocol.afterReset.keeps .p2 [.issued 0x50000000 0 0] = false ∧
    Protocol.afterReset.keeps .p3 [.issued 0x50000000 0 0] = true ∧
    Protocol.afterReset.acceptsProgram (compressItems abcBlock ++ rddigestItems) = true := by decide

/-- R138: between messages `init` or eight `wrh`, seven do not do. -/
theorem test_protocol_p3 : readyProtocol.acceptsProgram (.nextMessage :: compressItems abcBlock) = false ∧
    readyProtocol.acceptsProgram (.nextMessage :: initItem :: compressItems abcBlock) = true ∧
    [8, 7].map (fun n => readyProtocol.keeps .p3
      (.nextMessage :: (List.range n).map (fun i => .issued (commandWord 0x3 (BitVec.ofNat 4 i)) 0 0) ++ [.issued 0x50000000 0 0])) =
      [true, false] := by decide

/-- R138: an illegal word breaks P4 and, where a poll is owed, P1. -/
theorem test_protocol_p4 : readyProtocol.keeps .p4 [.issued 0x70000000 0 0] = false ∧
    readyProtocol.keeps .p1 [.issued 0x70000000 0 0] = true ∧
    readyProtocol.keeps .p1 [.issued 0x50000000 0 0, .issued 0x70000000 0 0] = false := by decide

/-- A host that compresses a block, and then one of the next message. -/
def twoMessages : State :=
  { ready with
    program := compressItems abcBlock ++ rddigestItems ++ [.nextMessage, initItem] ++ compressItems abcBlock
    turns := [.host, .engine] }

theorem twoMessages_inv : Inv twoMessages where
  counter h := by revert h; decide
  exclusive := by decide
  cause := by decide
  written h := by revert h; decide

/-- An accepted program; and a history of one START and one RDSTAT after the last step, which returns BUSY = 0. -/
theorem witness_ProtocolHostsNeverSeeAnError : Inv twoMessages ∧ readyProtocol.Agrees twoMessages ∧
    twoMessages.status.err = false ∧ twoMessages.faulted = false ∧ Turn.reset ∉ twoMessages.turns ∧
    readyProtocol.acceptsProgram twoMessages.program = true ∧ readyProtocol.follows (hostEvents 4 twoMessages) ∧
    hostEvents 4 twoMessages ≠ [] :=
  ⟨twoMessages_inv, ⟨rfl, fun _ => rfl⟩, rfl, rfl, by decide, by decide, fun c => by cases c <;> decide, by decide⟩

/-- Running, with only FINAL to come and a host that waits for it. -/
def lastStep : State := { started with j := 64, program := [.wait] }

theorem lastStep_inv : Inv lastStep where
  counter _ := by decide
  exclusive := by decide
  cause := by decide
  written _ := by decide

/-- FINAL before, or after, a first poll. -/
theorem witness_FinishedRunsAgreeOnTheResult : Inv lastStep ∧ { readyProtocol with waiting := true }.Agrees lastStep ∧
    Turn.reset ∉ [Turn.engine, .host] ∧ Turn.reset ∉ [Turn.host, .engine, .host] ∧
    { readyProtocol with waiting := true }.keeps .p1 (hostEvents 2 { lastStep with turns := [.engine, .host] }) = true ∧
    { readyProtocol with waiting := true }.keeps .p1 (hostEvents 3 { lastStep with turns := [.host, .engine, .host] }) = true ∧
    (∃ t, runSteps 2 { lastStep with turns := [.engine, .host] } = .next t ∧ t.finished = true) ∧
    ∃ t, runSteps 3 { lastStep with turns := [.host, .engine, .host] } = .next t ∧ t.finished = true :=
  ⟨lastStep_inv, ⟨rfl, nofun⟩, by decide, by decide, by decide, by decide, ⟨_, rfl, rfl⟩, _, rfl, rfl⟩

/-- The narrowest and widest rotation, at both ends of the word. -/
theorem witness_RotrMovesEveryBit : (ROTR 0x00000001 1).getLsbD 31 = true ∧ (ROTR 0x40000000 31).getLsbD 31 = true ∧
    (ROTR 0x00000002 1).getLsbD 0 = true := by decide

/-- The bits where the shifts begin to fill with zeros. -/
theorem witness_SigmaBits : (28 < 32 ∧ 28 ≤ 28) ∧ (29 < 32 ∧ ¬ 29 ≤ 28) ∧ 21 ≤ 21 ∧ ¬ 22 ≤ 21 ∧ 31 < 32 := by decide

theorem witness_AdderTreeShapeIsUnobservable : ([1, 0xFFFFFFFF, 3] : List Word).Perm [3, 1, 0xFFFFFFFF] := by decide

theorem witness_ScheduleMeetsItsRecurrence : (16 ≤ 16 ∧ 16 < 64) ∧ (16 ≤ 63 ∧ 63 < 64) := by decide

theorem witness_PaddedLength : ([] : List Byte).length < 2 ^ 61 ∧ (List.replicate 56 (0 : Byte)).length < 2 ^ 61 := by decide

theorem witness_LengthFieldIsExact : (pad []).isSome = true ∧ ∃ msg : List Byte, 2 ^ 61 ≤ msg.length :=
  ⟨by decide, List.replicate (2 ^ 61) 0, by rw [List.length_replicate]⟩

theorem witness_StreamingEqualsOneShot : ([[0x61], [], [0x62, 0x63]] : List (List Byte)).flatten.length < 2 ^ 61 := by decide

/-- Assembled lines with an operand at the end of its range, and the two ranges of an assembly error. -/
theorem witness_OnlyRawLinesAssembleIllegalWords :
    (assemble (.wrm 15 1)).isSome = true ∧ (assemble (.rdh 7)).isSome = true ∧ (∀ cmd word, AsmLine.wrm 15 1 ≠ .cmd cmd word) ∧
    16 ≤ 16 ∧ 8 ≤ 8 := ⟨by decide, by decide, by simp, by decide, by decide⟩

/-- A presented command at ROUND's first edge and at FINAL's. -/
theorem witness_SharedEdgeIsCommandThenEngineStep : [0, 64].all (fun j =>
    (running j Working.zero).status.busy && decide ((running j Working.zero).j.toNat ≤ 64) &&
      !(running j Working.zero).faulted) = true ∧
    (PinsIn.mk false true 0x60000000 0).rst = false ∧ (PinsIn.mk false true 0x60000000 0).cmdValid = true := by decide

theorem witness_NominalCompressionTakes65Edges : ready.status.busy = false ∧ ready.faulted = false ∧
    (∀ i : Fin 16, ready.Mvalid[i.val] = true) ∧ (PinsIn.mk false true 0x50000000 0).cmd = 0x50000000 ∧
    (∀ p ∈ List.replicate 65 (PinsIn.mk false true 0x60000000 0), p.rst = false) ∧
    (List.replicate 65 (PinsIn.mk false true 0x60000000 0)).length = 65 ∧
    (List.replicate 64 (PinsIn.mk false true 0x60000000 0)).length ≤ 64 :=
  ⟨rfl, rfl, by decide, rfl, by decide, by decide, by decide⟩

theorem witness_ResetWinsAtAnEdge : (PinsIn.mk true true 0x50000000 0).rst = true := by decide

theorem witness_ResponsePinsLastOneCycle :
    (nextOf (pinEdge (PinsIn.mk false false 0 0) true (running 0 Working.zero))).isSome = true ∧
    (nextOf (pinEdge (PinsIn.mk false true 0x60000000 0) true (running 0 Working.zero))).any (fun t => !t.faulted) = true := by decide

end Sys2Proof.Tests
end

section
/-! PROOFS. The rules of 10_state.md: what a step can do to each element of the engine, the structural invariant, and the values
no step can observe. -/

namespace Sys2Proof.Machine

/-! What a step can do to the engine -/

/-- The engine's own elements (10_state.md R14, R27) are the same; the response and the agents' inputs may differ. -/
structure SameEngine (s t : State) : Prop where
  H : t.H = s.H
  M : t.M = s.M
  work : t.work = s.work
  W : t.W = s.W
  j : t.j = s.j
  status : t.status = s.status
  Mvalid : t.Mvalid = s.Mvalid
  faulted : t.faulted = s.faulted

theorem SameEngine.message {s t : State} (e : SameEngine s t) : SameMessage s t := ⟨e.M, e.Mvalid⟩

theorem SameEngine.hidden {s t : State} (e : SameEngine s t) : SameHidden s t := ⟨e.work, e.W, e.j⟩

/-- Every effect a step from `s` to `t` can have on the engine's own elements, with the turn and the command it comes from. -/
inductive StepEffect (s t : State) : Prop where
  | quiet (e : SameEngine s t)
  | illegal (e : SameEngine (reject .illegalCmd s) t) (ht : nextTurn s = .host) (hi : nextIsIllegal s)
  | busy (e : SameEngine (reject .busyViolation s) t) (ht : nextTurn s = .host) {i : Instr} (hc : nextCommand s = some i)
      (hl : i.legalWhileBusy = false) (hb : s.status.busy = true)
  | init (e : SameEngine (clearDone (loadIV s)) t) (ht : nextTurn s = .host) (hc : nextCommand s = some .init)
      (hb : s.status.busy = false)
  | wrm {idx : BitVec 4} {word : Word} (e : SameEngine (writeM (mIndex idx) word s) t) (ht : nextTurn s = .host)
      (hc : nextCommand s = some (.wrm idx word)) (hb : s.status.busy = false)
  | wrh {idx : BitVec 4} {word : Word} {h : idx.toNat < 8} (e : SameEngine (clearDone (writeH ⟨idx.toNat, h⟩ word s)) t)
      (ht : nextTurn s = .host) (hc : nextCommand s = some (.wrh idx word)) (hb : s.status.busy = false)
  | start (e : SameEngine (setBusy (load s)) t) (ht : nextTurn s = .host) (hc : nextCommand s = some .start)
      (hb : s.status.busy = false) (hw : allWritten s = true)
  | unwritten (e : SameEngine (modelFault s) t) (ht : nextTurn s = .host) (hc : nextCommand s = some .start)
      (hb : s.status.busy = false) (hw : allWritten s = false)
  | round {hj : s.j.toNat < 64} (e : SameEngine (roundStep ⟨s.j.toNat, hj⟩ s) t) (ht : nextTurn s = .engine)
      (hb : s.status.busy = true)
  | final (e : SameEngine (finalStep s) t) (ht : nextTurn s = .engine) (hb : s.status.busy = true) (hj : s.j.toNat = 64)
  | reset (e : SameEngine (resetEngine s) t) (ht : nextTurn s = .reset)

/-- The result of a well-formed command, once the host has received its response, is an effect on the engine. -/
theorem CommandResult.stepEffect {s u : State} {i : Instr} {item : HostItem} {rest : List HostItem}
    (hr : CommandResult (clearRsp (dropItem rest (drawTurn s))) i u) (hwf : i.wellFormed = true)
    (ht : nextTurn s = .host) (hc : nextCommand s = some i) : StepEffect s (receive item u) := by
  cases hr with
  | nop => exact .quiet (by constructor <;> simp)
  | rdstat => exact .quiet (by constructor <;> simp)
  | rdh => exact .quiet (by constructor <;> simp)
  | busy _ hl hb => exact .busy (by constructor <;> simp) ht hc hl hb
  | range _ hw => simp [hwf] at hw
  | init hb => exact .init (by constructor <;> simp) ht hc hb
  | wrm _ _ hb => exact .wrm (by constructor <;> simp) ht hc hb
  | wrh _ _ h hb => exact .wrh (h := h) (by constructor <;> simp) ht hc hb
  | start hb hw => exact .start (by constructor <;> simp) ht hc hb hw
  | unwritten hb hw => exact .unwritten (by constructor <;> simp) ht hc hb hw

theorem step_effect {s t : State} (h : step s = .next t) : StepEffect s t := by
  cases step_cases h with
  | hostIdle => exact .quiet (by constructor <;> simp)
  | hostMark => exact .quiet (by constructor <;> simp)
  | engineIdle => exact .quiet (by constructor <;> simp)
  | engineRound ht hb hj => exact .round (hj := hj) (by constructor <;> simp) ht hb
  | engineFinal ht hb hj => exact .final (by constructor <;> simp) ht hb hj
  | reset ht => exact .reset (by constructor <;> rfl) ht
  | hostCommand ht hp hw =>
    obtain ⟨hp', -⟩ | ⟨_, hp', -⟩ | ⟨_, _, _, _, u, hp', -, -, -, hu, hc⟩ := step_host_cases h ht
    · simp [hp] at hp'
    · obtain ⟨rfl, -⟩ : _ ∧ _ := by simpa using hp.symm.trans hp'
      simp [HostItem.words] at hw
    · rw [hu]
      obtain ⟨-, -, hi, rfl⟩ | ⟨i, -, hc, -, hwf, hr⟩ := hc
      · exact .illegal (by constructor <;> simp) ht hi
      · exact hr.stepEffect hwf ht hc

/-- A host turn with a legal word runs that command on the port; the host then receives the response. -/
theorem step_nextCommand {s t : State} {i : Instr} (h : step s = .next t) (ht : nextTurn s = .host)
    (hc : nextCommand s = some i) :
    ∃ item rest u, t = receive item u ∧ i.wellFormed = true ∧
      CommandResult (clearRsp (dropItem rest (drawTurn s))) i u := by
  obtain ⟨hp, -⟩ | ⟨rest, hp, -⟩ | ⟨item, _, _, rest, u, -, -, -, -, rfl, hd⟩ := step_host_cases h ht
  · simp [nextCommand, nextWords, hp] at hc
  · simp [nextCommand, nextWords, hp, HostItem.words] at hc
  · obtain ⟨-, hn, -, -⟩ | ⟨k, -, hk, -, hwf, hr⟩ := hd
    · simp [hn] at hc
    · obtain rfl : k = i := by simpa [hk] using hc
      exact ⟨item, rest, u, rfl, hwf, hr⟩

theorem step_status_of_reset {s t : State} (h : step s = .next t) (ht : nextTurn s = .reset) :
    t.status = Status.zero := by
  obtain rfl : resetEngine (drawTurn s) = t := by simpa [step_reset ht] using h
  rfl

theorem engineStepEnabled_eq_final {s : State} (h : engineStepEnabled s = some .final) :
    s.status.busy = true ∧ s.j.toNat = 64 := by
  unfold engineStepEnabled at h
  split_ifs at h with hb _ hj
  · cases h
  · exact ⟨hb, hj⟩

/-- The round counter does not wrap while a compression runs (R19). -/
theorem counter_succ {c : BitVec 7} (h : c.toNat < 64) : (c + 1).toNat = c.toNat + 1 := by
  rw [BitVec.toNat_add]
  exact Nat.mod_eq_of_lt (show c.toNat + 1 < 128 by omega)

/-- A well-formed command other than NOP and RDSTAT is turned away while busy (R106). -/
theorem exec_of_busy {s : State} {i : Instr} (hi : i.isCommand = true) (hwf : i.wellFormed = true)
    (hl : i.legalWhileBusy = false) (hb : s.status.busy = true) : exec i s = .next (reject .busyViolation s) := by
  cases i with
  | nop | rdstat => cases hl
  | round | final => cases hi
  | init => exact execInit_busy hb
  | wrm idx word => exact execWrm_busy idx word hb
  | wrh idx word => exact execWrh_busy word (by simpa [Instr.wellFormed] using hwf) hb
  | rdh idx => exact execRdh_busy (by simpa [Instr.wellFormed] using hwf) hb
  | start => exact execStart_busy hb

/-! The structural invariant -/

namespace Inv

variable {s t : State}

/-- The invariant speaks of j, STATUS and Mvalid only. -/
theorem congr (hi : Inv s) (hj : t.j = s.j) (hs : t.status = s.status) (hv : t.Mvalid = s.Mvalid) : Inv t where
  counter := by simpa [hj, hs] using hi.counter
  exclusive := by simpa [hs] using hi.exclusive
  cause := by simpa [hs] using hi.cause
  written := by simpa [hs, hv] using hi.written

theorem sameEngine (hi : Inv s) (e : SameEngine s t) : Inv t :=
  hi.congr e.j e.status e.Mvalid

theorem reject (hi : Inv s) {c : Cause} (hc : c ≠ .none) : Inv (reject c s) where
  counter := hi.counter
  exclusive := hi.exclusive
  cause := by cases he : s.status.err <;> simp [he, hi.cause, hc]
  written := hi.written

theorem clearDone (hi : Inv s) : Inv (clearDone s) where
  counter := hi.counter
  exclusive := by simp
  cause := hi.cause
  written := hi.written

theorem writeM (hi : Inv s) (i : Fin 16) (v : Word) : Inv (writeM i v s) where
  counter := hi.counter
  exclusive := hi.exclusive
  cause := hi.cause
  written hb k := by simp [Vector.getElem_set, hi.written hb k]

theorem start (hi : Inv s) (hw : allWritten s = true) : Inv (setBusy (load s)) where
  counter _ := by simp
  exclusive := by simp
  cause := hi.cause
  written _ := (allWritten_iff s).mp hw

theorem roundStep (hi : Inv s) {j : Fin 64} (hj : s.j.toNat = j.val) : Inv (roundStep j s) where
  counter _ := by
    have := j.isLt
    rw [roundStep_j, counter_succ (by omega)]
    omega
  exclusive := hi.exclusive
  cause := hi.cause
  written := hi.written

theorem finalStep (hi : Inv s) : Inv (finalStep s) where
  counter := by simp
  exclusive := by simp
  cause := hi.cause
  written := by simp

theorem resetEngine (s : State) : Inv (resetEngine s) where
  counter := by simp
  exclusive := by simp
  cause := by simp
  written := by simp

end Inv

/-- Settles O39: every effect of a step keeps the invariant. -/
theorem everyStepKeepsInv : Obligations.EveryStepKeepsInv := by
  intro s t hi h
  cases step_effect h with
  | quiet e => exact hi.sameEngine e
  | illegal e => exact (hi.reject (by decide)).sameEngine e
  | busy e => exact (hi.reject (by decide)).sameEngine e
  | init e => exact (hi.congr (t := loadIV s) rfl rfl rfl).clearDone.sameEngine e
  | wrm e => exact (hi.writeM _ _).sameEngine e
  | wrh e => exact (hi.congr (t := writeH _ _ s) rfl rfl rfl).clearDone.sameEngine e
  | start e _ _ _ hw => exact (hi.start hw).sameEngine e
  | unwritten e => exact (hi.congr (t := modelFault s) rfl rfl rfl).sameEngine e
  | round e => exact (hi.roundStep rfl).sameEngine e
  | final e => exact hi.finalStep.sameEngine e
  | reset e => exact (Inv.resetEngine s).sameEngine e

/-! Who writes what -/

/-- Settles O34: no other effect of a step touches H. -/
theorem chainIsWrittenOnlyByInitWrhFinal : Obligations.ChainIsWrittenOnlyByInitWrhFinal := by
  intro s t h hne
  cases step_effect h with
  | reset _ ht => exact .inl ht
  | final _ ht hb hj => exact .inr (.inl ⟨ht, engineStepEnabled_final hb hj⟩)
  | init _ ht hc hb => exact .inr (.inr ⟨ht, hb, .inl hc⟩)
  | wrh _ ht hc hb => exact .inr (.inr ⟨ht, hb, .inr ⟨_, _, hc⟩⟩)
  | _ e => exact absurd e.H hne

/-- Settles O36: no other effect of a step touches a..h, W or j. -/
theorem hiddenRegistersAreWrittenOnlyByTheEngine : Obligations.HiddenRegistersAreWrittenOnlyByTheEngine := by
  intro s t h hne
  cases step_effect h with
  | reset _ ht => exact .inl ht
  | @round hj _ ht hb => exact .inr (.inl ⟨ht, engineStepEnabled_round hb hj⟩)
  | start _ ht hc hb => exact .inr (.inr ⟨ht, hb, hc⟩)
  | _ e => exact absurd e.hidden hne

theorem step_message_writers {s t : State} (h : step s = .next t) (hne : ¬ SameMessage s t) :
    nextTurn s = .reset ∨
    (nextTurn s = .host ∧ s.status.busy = false ∧
      ∃ (idx : BitVec 4) (word : Word), nextCommand s = some (.wrm idx word) ∧
        t.M = s.M.set idx.toNat word ∧ t.Mvalid = s.Mvalid.set idx.toNat true) := by
  cases step_effect h with
  | reset _ ht => exact .inl ht
  | wrm e ht hc hb => exact .inr ⟨ht, hb, _, _, hc, e.M, e.Mvalid⟩
  | _ e => exact absurd e.message hne

/-- Only the model fault sets `faulted`, and nothing clears it (R27). -/
theorem step_faulted {s t : State} (h : step s = .next t) :
    t.faulted = s.faulted ∨
    (t.faulted = true ∧ nextTurn s = .host ∧ nextCommand s = some .start ∧ s.status.busy = false ∧ allWritten s = false) := by
  cases step_effect h with
  | unwritten e ht hc hb hw => exact .inr ⟨e.faulted, ht, hc, hb, hw⟩
  | _ e => exact .inl e.faulted

theorem exists_unwritten_of_allWritten_eq_false {s : State} (h : allWritten s = false) :
    ∃ i : Fin 16, s.Mvalid[i.val] = false := by
  by_contra hall
  have hw := (allWritten_iff s).mpr (by simpa using hall)
  simp [h] at hw

/-- Settles O35: the writers of M and Mvalid, and those of `faulted`. -/
theorem messageIsWrittenOnlyByWrm : Obligations.MessageIsWrittenOnlyByWrm := by
  intro s t h
  refine ⟨step_message_writers h, fun hf => ?_, fun hf hft => ?_⟩
  · obtain hsame | ⟨hft, -⟩ := step_faulted h
    · exact hsame.trans hf
    · exact hft
  · obtain hsame | ⟨-, ht, hc, hb, hw⟩ := step_faulted h
    · simp [hsame, hf] at hft
    · exact ⟨ht, hc, hb, exists_unwritten_of_allWritten_eq_false hw⟩

/-! STATUS -/

/-- A bit of the STATUS word in terms of its fields, as R25 lays them out from bit 0 up. -/
theorem Status.getLsbD_word (st : Status) (n : Nat) :
    st.word.getLsbD n = (decide (n < 32) &&
      if n < 1 then (BitVec.ofBool st.busy).getLsbD n
      else if n - 1 < 1 then (BitVec.ofBool st.done).getLsbD (n - 1)
      else if n - 1 - 1 < 1 then (BitVec.ofBool st.err).getLsbD (n - 1 - 1)
      else if n - 1 - 1 - 1 < 1 then (0#1).getLsbD (n - 1 - 1 - 1)
      else st.cause.code.getLsbD (n - 1 - 1 - 1 - 1)) := by
  simp only [Status.word, BitVec.getLsbD_setWidth, BitVec.getLsbD_append]

theorem Status.word_done (st : Status) : st.word.getLsbD 1 = st.done := by
  rw [st.getLsbD_word]
  simp

theorem Status.word_err (st : Status) : st.word.getLsbD 2 = st.err := by
  rw [st.getLsbD_word]
  simp

theorem Status.word_reserved (st : Status) : st.word.getLsbD 3 = false := by
  rw [st.getLsbD_word]
  simp

theorem Status.word_cause (st : Status) : st.word.extractLsb' 4 2 = st.cause.code := by
  ext i hi
  have h32 : 4 + i < 32 := by omega
  rw [BitVec.getElem_extractLsb', st.getLsbD_word]
  simp [h32, hi]

/-- The six bits of R25 are all there is: the rest of the word is the zero extension. -/
theorem Status.word_high (st : Status) {n : Nat} (hn : 6 ≤ n) : st.word.getLsbD n = false := by
  simp [Status.word, BitVec.getLsbD_of_ge _ n hn]

/-- Settles O29, bit by bit. -/
theorem statusWordLayout : Obligations.StatusWordLayout := by
  refine ⟨by decide, fun st => ⟨st.word_busy, st.word_done, st.word_err, st.word_reserved, ?_, fun n => st.word_high⟩⟩
  rw [st.word_cause]
  cases st.cause <;> rfl

/-- ERR and CAUSE after a step: kept, or an error recorded, or cleared by reset (R117, R134). -/
theorem step_error {s t : State} (h : step s = .next t) :
    (t.status.err = s.status.err ∧ t.status.cause = s.status.cause) ∨
    (∃ c, t.status = s.status.error c) ∨
    (nextTurn s = .reset ∧ t.status = Status.zero) := by
  cases step_effect h with
  | illegal e => exact .inr (.inl ⟨_, e.status⟩)
  | busy e => exact .inr (.inl ⟨_, e.status⟩)
  | reset e ht => exact .inr (.inr ⟨ht, e.status⟩)
  | _ e => exact .inl (by simp [e.status])

/-- Settles O32: error(cause) writes CAUSE only where ERR is 0. -/
theorem firstErrorIsKeptUntilReset : Obligations.FirstErrorIsKeptUntilReset := by
  intro s t h
  refine ⟨fun hnr he => ?_, fun hnr he => ?_, fun ht => by simp [step_status_of_reset h ht]⟩
  · obtain ⟨herr, hcause⟩ | ⟨c, hst⟩ | ⟨ht, -⟩ := step_error h
    · exact ⟨herr.trans he, hcause⟩
    · simp [hst, he]
    · exact absurd ht hnr
  · obtain ⟨-, hcause⟩ | ⟨c, hst⟩ | ⟨ht, -⟩ := step_error h
    · exact hcause
    · simp [hst] at he
    · exact absurd ht hnr

/-- A command that is not legal while busy is turned away then: error, and rdata 0 (R106). -/
theorem CommandResult.rejected_of_busy {s u : State} {i : Instr} (hr : CommandResult s i u)
    (hb : s.status.busy = true) (hl : i.legalWhileBusy = false) : u.status.err = true ∧ u.rsp = some 0 := by
  cases hr with
  | nop => cases hl
  | rdstat => cases hl
  | busy => exact ⟨rfl, rfl⟩
  | range => exact ⟨rfl, rfl⟩
  | init h | wrm _ _ h | wrh _ _ _ h | rdh _ _ h | start h | unwritten h => simp [hb] at h

theorem legalWhileBusy_eq_false {i : Instr} (hn : i ≠ .nop) (hr : i ≠ .rdstat) : i.legalWhileBusy = false := by
  cases i with
  | nop => exact absurd rfl hn
  | rdstat => exact absurd rfl hr
  | _ => rfl

theorem engineStepEnabled_of_inv {s : State} (hi : Inv s) (hb : s.status.busy = true) : engineStepEnabled s ≠ none := by
  rcases Nat.lt_or_eq_of_le (hi.counter hb) with hj | hj
  · simp [engineStepEnabled_round hb hj]
  · simp [engineStepEnabled_final hb hj]

theorem step_busy_set {s t : State} (h : step s = .next t) (hs : s.status.busy = false) (ht : t.status.busy = true) :
    nextTurn s = .host ∧ nextCommand s = some .start := by
  cases step_effect h with
  | start _ hturn hc => exact ⟨hturn, hc⟩
  | _ e => simp [e.status, hs] at ht

theorem step_busy_cleared {s t : State} (h : step s = .next t) (hs : s.status.busy = true) (ht : t.status.busy = false) :
    nextTurn s = .reset ∨ (nextTurn s = .engine ∧ engineStepEnabled s = some .final) := by
  cases step_effect h with
  | reset _ hturn => exact .inl hturn
  | final _ hturn hb hj => exact .inr ⟨hturn, engineStepEnabled_final hb hj⟩
  | _ e => simp [e.status, hs] at ht

/-- Settles O30: the writers of BUSY, the enabled step, and the commands turned away. -/
theorem busyIsStartToFinal : Obligations.BusyIsStartToFinal := by
  intro s t h
  refine ⟨step_busy_set h, step_busy_cleared h, fun hb hi => engineStepEnabled_of_inv hi hb,
    fun hb ht i hc hn hr => ?_⟩
  obtain ⟨item, rest, u, rfl, -, hres⟩ := step_nextCommand h ht hc
  exact hres.rejected_of_busy hb (legalWhileBusy_eq_false hn hr)

theorem step_done_set {s t : State} (h : step s = .next t) (hs : s.status.done = false) (ht : t.status.done = true) :
    nextTurn s = .engine ∧ engineStepEnabled s = some .final := by
  cases step_effect h with
  | final _ hturn hb hj => exact ⟨hturn, engineStepEnabled_final hb hj⟩
  | _ e => simp [e.status, hs] at ht

/-- START, INIT and WRH clear DONE where they are carried out (R22). -/
theorem CommandResult.done_cleared {s u : State} {i : Instr} (hr : CommandResult s i u)
    (hi : i = .start ∨ i = .init ∨ ∃ idx word, i = .wrh idx word) (hwf : i.wellFormed = true)
    (hb : s.status.busy = false) (hf : u.faulted = false) : u.status.done = false := by
  cases hr with
  | start => rfl
  | init => rfl
  | wrh => rfl
  | busy _ _ hb' => simp [hb] at hb'
  | range _ hw => simp [hwf] at hw
  | unwritten => simp at hf
  | _ => simp at hi

theorem step_done_cleared {s t : State} (h : step s = .next t) (hs : s.status.done = true) (ht : t.status.done = false) :
    nextTurn s = .reset ∨
    (nextTurn s = .host ∧ s.status.busy = false ∧
      (nextCommand s = some .start ∨ nextCommand s = some .init ∨ ∃ idx word, nextCommand s = some (.wrh idx word))) := by
  cases step_effect h with
  | reset _ hturn => exact .inl hturn
  | start _ hturn hc hb => exact .inr ⟨hturn, hb, .inl hc⟩
  | init _ hturn hc hb => exact .inr ⟨hturn, hb, .inr (.inl hc)⟩
  | wrh _ hturn hc hb => exact .inr ⟨hturn, hb, .inr (.inr ⟨_, _, hc⟩)⟩
  | _ e => simp [e.status, hs] at ht

theorem step_clears_done {s t : State} {i : Instr} (h : step s = .next t) (ht : nextTurn s = .host)
    (hb : s.status.busy = false) (hf : t.faulted = false) (hc : nextCommand s = some i)
    (hi : i = .start ∨ i = .init ∨ ∃ idx word, i = .wrh idx word) : t.status.done = false := by
  obtain ⟨item, rest, u, rfl, hwf, hr⟩ := step_nextCommand h ht hc
  exact hr.done_cleared hi hwf hb hf

theorem step_done_of_final {s t : State} (h : step s = .next t) (ht : nextTurn s = .engine)
    (hfin : engineStepEnabled s = some .final) : t.status.done = true := by
  obtain ⟨hb, hj⟩ := engineStepEnabled_eq_final hfin
  rw [step_engine ht, engineTurn_final (s := drawTurn s) hb hj] at h
  obtain rfl : finalStep (drawTurn s) = t := by simpa using h
  rfl

theorem step_keeps_exclusive {s t : State} (h : step s = .next t)
    (hx : ¬(s.status.busy = true ∧ s.status.done = true)) : ¬(t.status.busy = true ∧ t.status.done = true) := by
  cases step_effect h with
  | init e | wrh e | start e | final e | reset e => simp [e.status]
  | _ e => simpa [e.status] using hx

/-- Settles O31: the writers of DONE both ways, and its exclusion with BUSY. -/
theorem doneIsFinalToNextStart : Obligations.DoneIsFinalToNextStart := by
  intro s t h
  refine ⟨step_done_set h, step_done_of_final h, step_done_cleared h, fun ht => by simp [step_status_of_reset h ht],
    fun ht hb hf => ?_, step_keeps_exclusive h⟩
  rintro (hc | hc | ⟨idx, word, hc⟩)
  · exact step_clears_done h ht hb hf hc (.inl rfl)
  · exact step_clears_done h ht hb hf hc (.inr (.inl rfl))
  · exact step_clears_done h ht hb hf hc (.inr (.inr ⟨_, _, rfl⟩))

/-! The values no step can observe -/

@[simp] theorem sameOutcome_next (R : State → State → Prop) (s t : State) :
    SameOutcome R (.next s) (.next t) ↔ R s t := Iff.rfl

@[simp] theorem sameOutcome_fault (R : State → State → Prop) (r q : Fault) :
    SameOutcome R (.fault r) (.fault q) ↔ r = q := Iff.rfl

/-- EXPAND keeps agreement on the words written so far, which then reach to W[j] (R18, R87). -/
theorem expand_congr {V W : Schedule} {j : Fin 64}
    (h : ∀ k : Fin 64, k.val < 16 ∨ k.val < j.val → V[k.val] = W[k.val]) (k : Fin 64)
    (hk : k.val < 16 ∨ k.val < j.val + 1) : (expand V j)[k.val] = (expand W j)[k.val] := by
  by_cases hkj : k = j
  · subst hkj
    rcases Nat.lt_or_ge k.val 16 with hlow | hhigh
    · simpa [expand_low hlow] using h k (.inl hlow)
    · simpa [expand_high hhigh] using scheduleWord_congr hhigh fun k hk => h k (.inr hk)
  · rw [expand_get_ne V j k hkj, expand_get_ne W j k hkj]
    exact h k (by omega)

namespace SameButUnspecified

variable {s t : State}

theorem busy_eq (r : SameButUnspecified s t) {b : Bool} (hb : s.status.busy = b) : t.status.busy = b := r.status ▸ hb

theorem allWritten_eq (r : SameButUnspecified s t) : allWritten t = allWritten s := by simp [allWritten, r.Mvalid]

theorem nextTurn_eq (r : SameButUnspecified s t) : nextTurn t = nextTurn s := by
  simp [nextTurn, r.turns, r.status]

theorem respond (r : SameButUnspecified s t) (v : Word) : SameButUnspecified (respond v s) (respond v t) :=
  { r with rsp := rfl }

theorem clearRsp (r : SameButUnspecified s t) : SameButUnspecified (clearRsp s) (clearRsp t) := { r with rsp := rfl }

theorem dropItem (r : SameButUnspecified s t) (rest : List HostItem) :
    SameButUnspecified (dropItem rest s) (dropItem rest t) := { r with program := rfl }

theorem drawTurn (r : SameButUnspecified s t) : SameButUnspecified (drawTurn s) (drawTurn t) :=
  { r with turns := congrArg List.tail r.turns }

theorem receive (r : SameButUnspecified s t) (item : HostItem) :
    SameButUnspecified (receive item s) (receive item t) :=
  { r with
    received := by simp [r.received, r.rsp]
    program := by simp [r.program, r.rsp] }

theorem modelFault (r : SameButUnspecified s t) : SameButUnspecified (modelFault s) (modelFault t) :=
  { r with faulted := rfl }

theorem loadIV (r : SameButUnspecified s t) : SameButUnspecified (loadIV s) (loadIV t) := { r with H := rfl }

theorem writeH (r : SameButUnspecified s t) (i : Fin 8) (v : Word) :
    SameButUnspecified (writeH i v s) (writeH i v t) := { r with H := by simp [r.H] }

theorem clearDone (r : SameButUnspecified s t) : SameButUnspecified (clearDone s) (clearDone t) :=
  { r with status := by simp [r.status] }

theorem reject (r : SameButUnspecified s t) (c : Cause) : SameButUnspecified (reject c s) (reject c t) :=
  { r with rsp := rfl, status := by simp [r.status] }

/-- A written M word is specified from then on (R16). -/
theorem writeM (r : SameButUnspecified s t) (i : Fin 16) (v : Word) :
    SameButUnspecified (writeM i v s) (writeM i v t) :=
  { r with
    Mvalid := by simp [r.Mvalid]
    M := fun k hk => by
      by_cases hik : i.val = k.val
      · simp [hik]
      · simpa [Vector.getElem_set, hik] using r.M k (by simpa [Vector.getElem_set, hik] using hk) }

/-- LOAD writes every hidden value that a running compression reads (R92). -/
theorem start (r : SameButUnspecified s t) (hw : allWritten s = true) :
    SameButUnspecified (setBusy (load s)) (setBusy (load t)) :=
  { r with
    status := by simp [r.status]
    running := fun _ => by
      refine ⟨congrArg Working.ofChain r.H, rfl, fun k hk => ?_⟩
      have hk : k.val < 16 := by simpa using hk
      simpa [loadSchedule_get_low _ _ k hk] using r.M ⟨k.val, hk⟩ ((allWritten_iff s).mp hw _) }

theorem roundStep (r : SameButUnspecified s t) {j : Fin 64} (hb : s.status.busy = true) (hj : s.j.toNat = j.val) :
    SameButUnspecified (roundStep j s) (roundStep j t) := by
  obtain ⟨hwork, hjt, hW⟩ := r.running hb
  have hexp := expand_congr (hj ▸ hW)
  refine { r with running := fun _ => ⟨?_, by simp [hjt], fun k hk => hexp k ?_⟩ }
  · simp [hwork, hexp j (.inr (by omega))]
  · have := j.isLt
    rwa [roundStep_j, counter_succ (by omega), hj] at hk

theorem finalStep (r : SameButUnspecified s t) (hb : s.status.busy = true) :
    SameButUnspecified (finalStep s) (finalStep t) :=
  { r with
    H := by simp [r.H, (r.running hb).1]
    status := by simp [r.status]
    running := by simp }

/-- The free values of a reset are those of its number, not of the state before it. -/
theorem resetEngine (r : SameButUnspecified s t) : SameButUnspecified (resetEngine s) (resetEngine t) :=
  { r with
    H := rfl, status := rfl, Mvalid := rfl, rsp := rfl
    resets := by simp [r.resets]
    M := by simp
    running := by simp }

/-- A well-formed command carried out while idle reads M only where written, and no hidden register. -/
theorem exec_idle (r : SameButUnspecified s t) {i : Instr} (hi : i.isCommand = true) (hwf : i.wellFormed = true)
    (hb : s.status.busy = false) : SameOutcome SameButUnspecified (exec i s) (exec i t) := by
  have hbt := r.busy_eq hb
  cases i with
  | nop => exact r.respond 0
  | rdstat => simpa [exec, execRdstat, ← r.status] using r.respond s.status.word
  | init => simpa [exec, execInit_idle, hb, hbt] using r.loadIV.clearDone.respond 0
  | wrm idx word => simpa [exec, execWrm_idle, hb, hbt] using (r.writeM (mIndex idx) word).respond 0
  | wrh idx word =>
    have h : idx.toNat < 8 := by simpa [Instr.wellFormed] using hwf
    simpa [exec, execWrh_idle word h, hb, hbt] using (r.writeH ⟨idx.toNat, h⟩ word).clearDone.respond 0
  | rdh idx =>
    have h : idx.toNat < 8 := by simpa [Instr.wellFormed] using hwf
    simpa [exec, execRdh_idle h, hb, hbt, r.H] using r.respond t.H[idx.toNat]
  | start =>
    cases hw : allWritten s with
    | true => simpa [exec, execStart_written, hb, hw, hbt, r.allWritten_eq] using (r.start hw).respond 0
    | false => simpa [exec, execStart_unwritten, hb, hw, hbt, r.allWritten_eq] using r.modelFault
  | round | final => cases hi

/-- While busy a command reads STATUS alone. -/
theorem exec_busy (r : SameButUnspecified s t) {i : Instr} (hi : i.isCommand = true) (hwf : i.wellFormed = true)
    (hb : s.status.busy = true) : SameOutcome SameButUnspecified (exec i s) (exec i t) := by
  cases hl : i.legalWhileBusy with
  | false => simpa [exec_of_busy hi hwf hl, hb, r.busy_eq hb] using r.reject _
  | true =>
    cases i with
    | nop => exact r.respond 0
    | rdstat => simpa [exec, execRdstat, ← r.status] using r.respond s.status.word
    | _ => cases hl

theorem issueCommand (r : SameButUnspecified s t) (cmd wdata : Word) :
    SameOutcome SameButUnspecified (issueCommand cmd wdata s) (issueCommand cmd wdata t) := by
  cases hd : decode cmd wdata with
  | none => simpa [issueCommand_illegal hd] using r.reject .illegalCmd
  | some i =>
    obtain ⟨hi, hwf⟩ := decode_some hd
    rw [issueCommand_legal hd, issueCommand_legal hd]
    cases hb : s.status.busy with
    | true => exact r.exec_busy hi hwf hb
    | false => exact r.exec_idle hi hwf hb

theorem hostTurn (r : SameButUnspecified s t) : SameOutcome SameButUnspecified (hostTurn s) (hostTurn t) := by
  cases hp : s.program with
  | nil => simpa [hostTurn_nil hp, hostTurn_nil (r.program ▸ hp)] using r
  | cons item rest =>
    have hpt : t.program = item :: rest := r.program ▸ hp
    cases hw : item.words with
    | none =>
      obtain rfl := HostItem.words_eq_none.mp hw
      simpa [hostTurn_mark hp, hostTurn_mark hpt] using r.dropItem rest
    | some w =>
      obtain ⟨cmd, wdata⟩ := w
      cases hf : s.faulted with
      | true => simp [hostTurn_faulted hp hw hf, hostTurn_faulted hpt hw (r.faulted ▸ hf)]
      | false =>
        have hport := (r.dropItem rest).clearRsp.issueCommand cmd wdata
        obtain ⟨u, hu, -⟩ := issueCommand_next cmd wdata (Machine.clearRsp (Machine.dropItem rest s))
        obtain ⟨v, hv, -⟩ := issueCommand_next cmd wdata (Machine.clearRsp (Machine.dropItem rest t))
        rw [hu, hv] at hport
        simpa [hostTurn_cons hp hw hf hu, hostTurn_cons hpt hw (r.faulted ▸ hf) hv] using receive hport item

theorem engineTurn (r : SameButUnspecified s t) :
    SameOutcome SameButUnspecified (engineTurn s) (engineTurn t) := by
  cases hb : s.status.busy with
  | false => simpa [engineTurn_idle, hb, r.busy_eq hb] using r
  | true =>
    have hbt := r.busy_eq hb
    have hjt : t.j = s.j := (r.running hb).2.1.symm
    rcases Nat.lt_trichotomy s.j.toNat 64 with hj | hj | hj
    · simpa [engineTurn_round hb hj, engineTurn_round hbt (hjt ▸ hj), hjt] using r.roundStep (j := ⟨_, hj⟩) hb rfl
    · simpa [engineTurn_final hb hj, engineTurn_final hbt (hjt ▸ hj)] using r.finalStep hb
    · simp [engineTurn_range hb hj, engineTurn_range hbt (hjt ▸ hj)]

end SameButUnspecified

/-- Settles O43: the same agent acts in both states, and its action keeps the relation. -/
theorem unspecifiedValuesAreUnobservable : Obligations.UnspecifiedValuesAreUnobservable := by
  intro s t r
  cases ht : nextTurn s with
  | host => simpa [step_host, ht, r.nextTurn_eq] using r.drawTurn.hostTurn
  | engine => simpa [step_engine, ht, r.nextTurn_eq] using r.drawTurn.engineTurn
  | reset => simpa [step_reset, ht, r.nextTurn_eq] using r.drawTurn.resetEngine

end Sys2Proof.Machine
end

section
/-! PROOFS. The rules of 20_memory.md: repeated accesses (R39), and the result of a run of a protocol-following host, which no
order of turns changes (R43). -/

namespace Sys2Proof.Machine

open Host (Outcome)

/-! Repeated accesses -/

/-- Settles O24: the second access writes the values, and answers the word, of the first. -/
theorem repeatedAccessesAreIdempotent : Obligations.RepeatedAccessesAreIdempotent := by
  intro s t i hi hb hwf h
  obtain ⟨idx, word, rfl⟩ | ⟨idx, word, rfl⟩ | rfl | ⟨idx, rfl⟩ | rfl := hi
  · obtain rfl := Outcome.next.inj ((execWrm_idle idx word hb).symm.trans h)
    simp [exec, execWrm_idle, hb, respond, writeM]
  · have hidx : idx.toNat < 8 := by simpa [Instr.wellFormed] using hwf
    obtain rfl := Outcome.next.inj ((execWrh_idle word hidx hb).symm.trans h)
    simp [exec, execWrh_idle word hidx, hb, respond, clearDone, Status.clearDone, writeH]
  · obtain rfl := Outcome.next.inj ((execInit_idle hb).symm.trans h)
    exact execInit_idle hb
  · have hidx : idx.toNat < 8 := by simpa [Instr.wellFormed] using hwf
    obtain rfl := Outcome.next.inj ((execRdh_idle hidx hb).symm.trans h)
    exact execRdh_idle hidx hb
  · obtain rfl := Outcome.next.inj h
    rfl

/-! A command on the port -/

/-- Everything a word's next state can be: an ILLEGAL word's, or its command's. -/
theorem issueCommand_cases {cmd wdata : Word} {s u : State} (hu : issueCommand cmd wdata s = .next u) :
    (decode cmd wdata = none ∧ u = reject .illegalCmd s) ∨
      ∃ i, decode cmd wdata = some i ∧ i.wellFormed = true ∧ CommandResult s i u := by
  obtain ⟨v, hv, hc⟩ := issueCommand_next cmd wdata s
  obtain rfl : u = v := Outcome.next.inj (hu.symm.trans hv)
  exact hc

theorem issueCommand_inputs {cmd wdata : Word} {s u : State} (hu : issueCommand cmd wdata s = .next u) :
    u.program = s.program ∧ u.turns = s.turns := by
  obtain ⟨-, rfl⟩ | ⟨i, -, -, hr⟩ := issueCommand_cases hu
  · exact ⟨rfl, rfl⟩
  · exact ⟨hr.inputs.1, hr.inputs.2.2.1⟩

/-! The engine alone -/

/-- One engine turn as a function; where the turn stops, which `Inv` excludes, nothing. -/
def engineNext (s : State) : State :=
  match engineTurn s with
  | .next t => t
  | .fault _ => s
  | .refused _ => s

theorem engineNext_of_engineTurn {s t : State} (h : engineTurn s = .next t) : engineNext s = t := by
  simp [engineNext, h]

theorem engineNext_idle {s : State} (hb : s.status.busy = false) : engineNext s = s :=
  engineNext_of_engineTurn (engineTurn_idle hb)

theorem engineNext_round {s : State} (hb : s.status.busy = true) (hj : s.j.toNat < 64) :
    engineNext s = roundStep ⟨s.j.toNat, hj⟩ s :=
  engineNext_of_engineTurn (engineTurn_round hb hj)

theorem engineNext_final {s : State} (hb : s.status.busy = true) (hj : s.j.toNat = 64) : engineNext s = finalStep s :=
  engineNext_of_engineTurn (engineTurn_final hb hj)

/-- The engine turns of a whole compression, 64 rounds and FINAL (R91). Irreducible, so that no proof runs them. -/
@[irreducible] def compressionTurns : Nat := 65

/-- The compression under way, if any, run to its end. -/
def settle (s : State) : State := engineNext^[compressionTurns] s

theorem settle_idle {s : State} (hb : s.status.busy = false) : settle s = s :=
  Function.iterate_fixed (engineNext_idle hb) _

theorem engineNext_iterate_idle {s : State} {n : Nat} (hi : Inv s) (hn : s.status.busy = true → 65 ≤ n + s.j.toNat) :
    (engineNext^[n] s).status.busy = false := by
  cases hb : s.status.busy with
  | false => rwa [Function.iterate_fixed (engineNext_idle hb)]
  | true =>
    have hn := hn hb
    have hj := hi.counter hb
    induction n generalizing s with
    | zero => omega
    | succ n ih =>
      rw [Function.iterate_succ_apply]
      rcases Nat.lt_or_eq_of_le hj with hj | hj
      · rw [engineNext_round hb hj]
        have hc : (roundStep ⟨s.j.toNat, hj⟩ s).j.toNat = s.j.toNat + 1 := counter_succ hj
        exact ih (hi.roundStep rfl) (by omega) hb (by omega) (by omega)
      · rw [engineNext_final hb hj, Function.iterate_fixed (engineNext_idle (by simp))]
        simp

theorem settle_busy {s : State} (hi : Inv s) : (settle s).status.busy = false :=
  engineNext_iterate_idle hi fun _ => by
    unfold compressionTurns
    omega

theorem settle_settle {s : State} (hi : Inv s) : settle (settle s) = settle s := settle_idle (settle_busy hi)

/-- An engine turn taken earlier is one not taken later. -/
theorem settle_engineNext {s : State} (hi : Inv s) : settle (engineNext s) = settle s :=
  calc settle (engineNext s) = engineNext (settle s) := (Function.Commute.refl engineNext).iterate_left _ s
    _ = settle s := engineNext_idle (settle_busy hi)

/-! The host's program with no engine turn left over: the result every order of turns comes to -/

/-- The state without the response and the agents' inputs, which the engine never reads. -/
def bare (s : State) : State := { s with rsp := none, program := [], received := [], turns := [] }

theorem Inv.bare {s : State} (hi : Inv s) : Inv (bare s) := hi.congr rfl rfl rfl

/-- What an item's command does to everything but the response. -/
def portEffect (s : State) (item : HostItem) : State :=
  match item.words with
  | none => s
  | some (cmd, wdata) =>
    match issueCommand cmd wdata s with
    | .next u => { u with rsp := s.rsp }
    | .fault _ => s
    | .refused _ => s

theorem portEffect_mark (s : State) : portEffect s .nextMessage = s := rfl

theorem portEffect_command {s u : State} {item : HostItem} {cmd wdata : Word} (hw : item.words = some (cmd, wdata))
    (hu : issueCommand cmd wdata s = .next u) : portEffect s item = { u with rsp := s.rsp } := by
  simp [portEffect, hw, hu]

/-- NOP and RDSTAT only respond (R98, R104). -/
theorem portEffect_legalWhileBusy (s : State) {item : HostItem} {cmd wdata : Word} (hw : item.words = some (cmd, wdata))
    (hq : (decode cmd wdata).any Instr.legalWhileBusy = true) : portEffect s item = s := by
  cases hd : decode cmd wdata with
  | none => simp [hd] at hq
  | some i =>
    have hl : i.legalWhileBusy = true := by simpa [hd] using hq
    cases i with
    | nop => exact portEffect_command (u := respond 0 s) hw (issueCommand_legal hd)
    | rdstat => exact portEffect_command (u := respond s.status.word s) hw (issueCommand_legal hd)
    | _ => cases hl

/-- A well-formed command has the same effect whatever the response and the agents' inputs are. -/
theorem CommandResult.exec_bare {s u : State} {i : Instr} (hr : CommandResult s i u) (hwf : i.wellFormed = true) :
    ∃ v, exec i (bare s) = .next v ∧ { v with rsp := none } = bare u := by
  cases hr with
  | nop => exact ⟨_, rfl, rfl⟩
  | rdstat => exact ⟨_, rfl, rfl⟩
  | busy hi hl hb => exact ⟨_, exec_of_busy hi hwf hl hb, rfl⟩
  | range _ hw => simp [hwf] at hw
  | init hb => exact ⟨_, execInit_idle hb, rfl⟩
  | wrm idx word hb => exact ⟨_, execWrm_idle idx word hb, rfl⟩
  | wrh idx word h hb => exact ⟨_, execWrh_idle word h hb, rfl⟩
  | rdh idx h hb => exact ⟨_, execRdh_idle h hb, rfl⟩
  | start hb hw => exact ⟨_, execStart_written hb hw, rfl⟩
  | unwritten hb hw => exact ⟨_, execStart_unwritten hb hw, rfl⟩

theorem portEffect_bare {s u : State} {item : HostItem} {cmd wdata : Word} (hw : item.words = some (cmd, wdata))
    (hu : issueCommand cmd wdata s = .next u) : portEffect (bare s) item = bare u := by
  obtain ⟨hd, rfl⟩ | ⟨i, hd, hwf, hr⟩ := issueCommand_cases hu
  · exact portEffect_command hw (issueCommand_illegal hd)
  · obtain ⟨v, hv, hvu⟩ := hr.exec_bare hwf
    exact (portEffect_command hw ((issueCommand_legal hd).trans hv)).trans hvu

/-- The items of a program issued one after another, each to a settled engine. -/
def serial (q : List HostItem) (s : State) : State := q.foldl (fun s item => settle (portEffect s item)) (settle s)

theorem serial_congr {s t : State} (h : settle s = settle t) (q : List HostItem) : serial q s = serial q t := by
  simp [serial, h]

theorem serial_cons (item : HostItem) (q : List HostItem) (s : State) :
    serial (item :: q) s = serial q (portEffect (settle s) item) := rfl

theorem serial_cons_idle (item : HostItem) (q : List HostItem) {s : State} (hb : s.status.busy = false) :
    serial (item :: q) s = serial q (portEffect s item) := by rw [serial_cons, settle_idle hb]

/-- An item without effect on the settled engine may be left out. -/
theorem serial_cons_same {s : State} (hi : Inv s) {item : HostItem} (h : portEffect (settle s) item = settle s)
    (q : List HostItem) : serial (item :: q) s = serial q s := by
  rw [serial_cons, h]
  exact serial_congr (settle_settle hi) q

/-- What is to come of a state: the rest of its program, issued serially. -/
def reference (s : State) : State := serial s.program (bare s)

theorem reference_of_finished {s : State} (h : s.finished = true) : reference s = bare s := by
  simp only [State.finished, Bool.and_eq_true, List.isEmpty_iff, Bool.not_eq_true'] at h
  obtain ⟨⟨hp, hb⟩, -⟩ := h
  simpa [reference, hp, serial] using settle_idle (s := bare s) hb

theorem reference_engineNext {s t : State} (hi : Inv s) (hp : t.program = s.program)
    (ht : bare t = engineNext (bare s)) : reference t = reference s := by
  rw [reference, reference, hp, ht]
  exact serial_congr (settle_engineNext hi.bare) _

/-! A host that keeps P1 -/

/-- A step uses up one turn of the schedule. -/
theorem step_turns {s t : State} (h : step s = .next t) : t.turns = s.turns.tail := by
  cases step_cases h with
  | hostCommand _ _ _ _ hu => exact (issueCommand_inputs hu).2
  | _ => rfl

theorem nextTurn_ne_reset {s : State} (h : Turn.reset ∉ s.turns) : nextTurn s ≠ .reset := by
  cases ht : s.turns with
  | nil => cases hb : s.status.busy <;> simp [nextTurn, ht, hb]
  | cons t ts =>
    rw [nextTurn_cons ht]
    rintro rfl
    simp [ht] at h

/-- Under P1 a command other than NOP and RDSTAT, an illegal word included, finds the engine idle. -/
theorem Protocol.Agrees.idle_of_p1 {p : Protocol} {s : State} (ha : p.Agrees s) {cmd wdata : Word}
    (hk : p.wordBreaks .p1 cmd wdata = false) (hl : (decode cmd wdata).any Instr.legalWhileBusy = false) :
    s.status.busy = false :=
  ha.2 (by simpa [Protocol.wordBreaks, hl] using hk)

/-- Only a `wait` is repeated, and its command is RDSTAT (R62). -/
theorem HostItem.repeats_eq_false {item : HostItem} {cmd wdata : Word} (hw : item.words = some (cmd, wdata))
    (hl : (decode cmd wdata).any Instr.legalWhileBusy = false) (rsp : Option Word) : item.repeats rsp = false := by
  cases item with
  | command _ _ => rfl
  | nextMessage => rfl
  | wait =>
    obtain ⟨rfl, rfl⟩ : 0x60000000 = cmd ∧ 0 = wdata := by simpa [HostItem.words] using hw
    exact absurd hl (by decide)

/-- A command issued under P1 leaves the result to come the same. -/
theorem reference_receive {s u : State} {p : Protocol} {item : HostItem} {cmd wdata : Word} {rest : List HostItem}
    (hi : Inv s) (ha : p.Agrees s) (hp : s.program = item :: rest) (hw : item.words = some (cmd, wdata))
    (hu : issueCommand cmd wdata (clearRsp (dropItem rest (drawTurn s))) = .next u)
    (hk : p.wordBreaks .p1 cmd wdata = false) : reference (receive item u) = reference s := by
  have hbare : portEffect (bare s) item = bare u := portEffect_bare (s := clearRsp (dropItem rest (drawTurn s))) hw hu
  have hrest : u.program = rest := (issueCommand_inputs hu).1
  show serial (receive item u).program (bare u) = serial s.program (bare s)
  rw [receive_program, hrest, hp, ← hbare]
  cases hl : (decode cmd wdata).any Instr.legalWhileBusy with
  | false =>
    have hidle : (bare s).status.busy = false := ha.idle_of_p1 hk hl
    rw [HostItem.repeats_eq_false hw hl, serial_cons_idle item rest hidle]
    rfl
  | true =>
    have hskip := serial_cons_same hi.bare (portEffect_legalWhileBusy _ hw hl) rest
    rw [portEffect_legalWhileBusy _ hw hl]
    split
    · rfl
    · exact hskip.symm

/-- A well-formed command issued under P1 leaves the record right of the state. -/
theorem CommandResult.agrees {s u : State} {p : Protocol} {i : Instr} (hr : CommandResult s i u) (ha : p.Agrees s)
    (hwf : i.wellFormed = true) (hk : i.legalWhileBusy = false → s.status.busy = false) :
    (p.afterCommand i (u.rsp.getD 0)).Agrees u := by
  obtain ⟨hwritten, hidle⟩ := ha
  cases hr with
  | nop | rdh => exact ⟨hwritten, hidle⟩
  | rdstat =>
    refine ⟨hwritten, fun hw => ?_⟩
    have hw : (p.waiting && s.status.word.getLsbD 0) = false := hw
    rw [Status.word_busy, Bool.and_eq_false_iff] at hw
    exact hw.elim hidle id
  | busy _ hl hb => simp [hk hl] at hb
  | range _ hw => simp [hwf] at hw
  | init => exact ⟨hwritten, hidle⟩
  | wrm idx word => exact ⟨by simp [Protocol.afterCommand, hwritten], hidle⟩
  | wrh idx word h =>
    simp only [Protocol.afterCommand, hIndex_of_lt h]
    exact ⟨hwritten, hidle⟩
  | start _ hw =>
    have hall : p.written.toList.all id = true := hwritten ▸ hw
    exact ⟨hwritten, by simp [Protocol.afterCommand, hall]⟩
  | unwritten hb => exact ⟨hwritten, fun _ => hb⟩

theorem Protocol.Agrees.receive {s u : State} {p : Protocol} {cmd wdata : Word} (ha : p.Agrees s)
    (hk : p.wordBreaks .p1 cmd wdata = false) (hu : issueCommand cmd wdata s = .next u) (item : HostItem) :
    (p.next (.issued cmd wdata (u.rsp.getD 0))).Agrees (receive item u) := by
  obtain ⟨hd, rfl⟩ | ⟨i, hd, hwf, hr⟩ := issueCommand_cases hu
  · rw [Protocol.next_illegal p hd]
    exact ha
  · rw [Protocol.next_legal p hd]
    exact hr.agrees ha hwf fun hl => ha.idle_of_p1 hk (by simpa [hd] using hl)

/-- A step that is no reset, of a host that keeps P1, leaves the record right and the result to come the same. -/
theorem step_reference {s t : State} {p : Protocol} (h : step s = .next t) (hi : Inv s) (ha : p.Agrees s)
    (hnr : nextTurn s ≠ .reset) (hk : p.keeps .p1 (hostEvent s t).toList = true) :
    (p.after (hostEvent s t).toList).Agrees t ∧ reference t = reference s := by
  cases step_cases h with
  | hostIdle ht hp =>
    rw [hostEvent_idle ht hp]
    exact ⟨ha, rfl⟩
  | hostMark ht hp =>
    rw [hostEvent_mark ht hp]
    refine ⟨ha, ?_⟩
    rw [reference, reference, hp, serial_cons_same hi.bare (portEffect_mark _)]
    rfl
  | @hostCommand item cmd wdata rest u ht hp hw hf hu =>
    rw [hostEvent_command ht hp hw] at hk ⊢
    obtain ⟨hk, -⟩ := (p.keeps_cons _ _ _).mp hk
    have ha' : p.Agrees (clearRsp (dropItem rest (drawTurn s))) := ha
    exact ⟨ha'.receive hk hu item, reference_receive hi ha hp hw hu hk⟩
  | engineIdle ht =>
    rw [hostEvent_engine ht]
    exact ⟨ha, rfl⟩
  | engineRound ht hb hj =>
    rw [hostEvent_engine ht]
    exact ⟨ha, reference_engineNext hi rfl (engineNext_round (s := bare s) hb hj).symm⟩
  | engineFinal ht hb hj =>
    rw [hostEvent_engine ht]
    exact ⟨⟨ha.1, fun _ => rfl⟩, reference_engineNext hi rfl (engineNext_final (s := bare s) hb hj).symm⟩
  | reset ht => exact absurd ht hnr

/-- Along a run without reset of a host that keeps P1, the result to come stays the same; at the end it is there. -/
theorem bare_of_finished_run {s t : State} {p : Protocol} {n : Nat} (hi : Inv s) (ha : p.Agrees s)
    (hnr : Turn.reset ∉ s.turns) (hk : p.keeps .p1 (hostEvents n s) = true) (hrun : runSteps n s = .next t)
    (hfin : t.finished = true) : bare t = reference s := by
  induction n generalizing s p with
  | zero =>
    obtain rfl := Outcome.next.inj hrun
    exact (reference_of_finished hfin).symm
  | succ n ih =>
    cases hs : step s with
    | fault r => simp [runSteps, hs] at hrun
    | refused r => simp [runSteps, hs] at hrun
    | next u =>
      rw [runSteps_succ hs] at hrun
      rw [hostEvents_succ hs, Protocol.keeps_append] at hk
      obtain ⟨hk, hks⟩ := hk
      obtain ⟨hau, href⟩ := step_reference hs hi ha (nextTurn_ne_reset hnr) hk
      have hnru : Turn.reset ∉ u.turns := fun hr => hnr (List.mem_of_mem_tail (step_turns hs ▸ hr))
      exact (ih (everyStepKeepsInv s u hi hs) hau hnru hks hrun).trans href

/-- Settles O45: both runs come to the result of the serial order, which does not depend on the turns. -/
theorem finishedRunsAgreeOnTheResult : Obligations.FinishedRunsAgreeOnTheResult := by
  intro s t t' p ts ts' n n' hi ha hnr hnr' hk hk' hrun hrun' hfin hfin'
  have hbare : bare t = reference s :=
    bare_of_finished_run (s := { s with turns := ts }) (hi.congr rfl rfl rfl) ha hnr hk hrun hfin
  have hbare' : bare t' = reference s :=
    bare_of_finished_run (s := { s with turns := ts' }) (hi.congr rfl rfl rfl) ha hnr' hk' hrun' hfin'
  have heq : bare t = bare t' := hbare.trans hbare'.symm
  exact ⟨(congrArg State.H heq :), ⟨(congrArg State.M heq.symm :), (congrArg State.Mvalid heq.symm :)⟩,
    (congrArg State.status heq :)⟩

end Sys2Proof.Machine
end

section
/-! PROOFS. The rules of 30_encoding.md: decoder and encoder, the response of a command, the assembler, and the pins. -/

namespace Sys2Proof

/-! The decoder and the encoder -/

/-- A command word read by its fields. -/
theorem eq_commandWord_iff {cmd : Word} {op idx : BitVec 4} :
    cmd = commandWord op idx ↔ opField cmd = op ∧ rsvField cmd = 0 ∧ idxField cmd = idx := by
  constructor
  · rintro rfl
    simp
  · rintro ⟨rfl, hrsv, rfl⟩
    exact (commandWord_fields hrsv).symm

/-- An instruction is read from its own OP and IDX, with any data word unless it uses it. -/
theorem decode_of_operands {i : Instr} {op : BitVec 4} {wdata : Word} (hwf : i.wellFormed = true)
    (hop : i.opcode = some op) (hw : i.usesWdata = true → wdata = i.wdataOperand) :
    decode (commandWord op i.idxOperand) wdata = some i := by
  cases i with
  | nop | init | start | rdstat =>
    cases hop
    rfl
  | wrm idx word =>
    cases hop
    obtain rfl := hw rfl
    simp [decode_commandWord, Instr.idxOperand]
  | wrh idx word =>
    cases hop
    obtain rfl := hw rfl
    have hlow : idx[3] = false := (idx_low idx).mpr (by simpa [Instr.wellFormed] using hwf)
    simp [decode_commandWord, Instr.idxOperand, hlow]
  | rdh idx =>
    cases hop
    have hlow : idx[3] = false := (idx_low idx).mpr (by simpa [Instr.wellFormed] using hwf)
    simp [decode_commandWord, Instr.idxOperand, hlow]
  | round | final => cases hop

/-- The test that a word passes fixes its OP, and its IDX where the instruction has no index (R55). -/
theorem operands_of_decode {cmd wdata : Word} {i : Instr} (h : decode cmd wdata = some i) :
    ∃ op, i.opcode = some op ∧ cmd = commandWord op i.idxOperand ∧
      i.wdataOperand = if i.usesWdata then wdata else 0 := by
  have hrsv : rsvField cmd = 0 := by
    by_contra hne
    simp [decode_of_rsv hne] at h
  rw [← commandWord_fields hrsv] at h ⊢
  generalize opField cmd = op at h ⊢
  generalize idxField cmd = idx at h ⊢
  rw [decode_commandWord] at h
  split_ifs at h
  all_goals
    obtain rfl := Option.some.inj h
    exact ⟨_, rfl, by simp [*, Instr.idxOperand], rfl⟩

/-- The decoder as a relation (R53), the two directions together. -/
theorem decode_eq_some_iff {cmd wdata : Word} {i : Instr} :
    decode cmd wdata = some i ↔
      i.wellFormed = true ∧ (i.usesWdata = true → wdata = i.wdataOperand) ∧
        ∃ op, i.opcode = some op ∧ cmd = commandWord op i.idxOperand := by
  constructor
  · intro h
    obtain ⟨op, hop, hcmd, hw⟩ := operands_of_decode h
    exact ⟨(Machine.decode_some h).2, fun hu => by simp [hw, hu], op, hop, hcmd⟩
  · rintro ⟨hwf, hw, op, hop, rfl⟩
    exact decode_of_operands hwf hop hw

theorem opcode_of_isCommand {i : Instr} (h : i.isCommand = true) : ∃ op, i.opcode = some op := by
  cases i with
  | round | final => cases h
  | _ => exact ⟨_, rfl⟩

theorem encode_of_opcode {i : Instr} {op : BitVec 4} (h : i.opcode = some op) :
    encode i = some (commandWord op i.idxOperand, i.wdataOperand) := by
  simp [encode, h]

theorem decode_encode {i : Instr} {cmd wdata : Word} (hwf : i.wellFormed = true) (he : encode i = some (cmd, wdata)) :
    decode cmd wdata = some i := by
  cases hop : i.opcode with
  | none => simp [encode, hop] at he
  | some op =>
    obtain ⟨rfl, rfl⟩ : commandWord op i.idxOperand = cmd ∧ i.wdataOperand = wdata := by
      simpa [encode_of_opcode hop] using he
    exact decode_of_operands hwf hop fun _ => rfl

/-- Settles O1: a command has an encoding, and the decoder reads it back. -/
theorem decodeUndoesEncode : Obligations.DecodeUndoesEncode := by
  intro i hwf hi
  obtain ⟨op, hop⟩ := opcode_of_isCommand hi
  exact ⟨_, _, encode_of_opcode hop, decode_encode hwf (encode_of_opcode hop)⟩

/-- Settles O2: the operands the decoder reads are those the encoder writes. -/
theorem encodeUndoesDecode : Obligations.EncodeUndoesDecode := by
  intro cmd wdata i h
  obtain ⟨hi, hwf⟩ := Machine.decode_some h
  obtain ⟨op, hop, rfl, hw⟩ := operands_of_decode h
  exact ⟨hwf, hi, by rw [encode_of_opcode hop, hw]⟩

/-! Illegal words -/

/-- The four kinds of R56, in the words of the decoder's tests. -/
theorem decode_eq_none_iff (cmd wdata : Word) :
    decode cmd wdata = none ↔
      (0x7 ≤ (opField cmd).toNat) ∨
      rsvField cmd ≠ 0 ∨
      (idxField cmd ≠ 0 ∧
        (opField cmd = 0x0 ∨ opField cmd = 0x1 ∨ opField cmd = 0x5 ∨ opField cmd = 0x6)) ∨
      ((idxField cmd).getLsbD 3 = true ∧ (opField cmd = 0x3 ∨ opField cmd = 0x4)) := by
  by_cases hrsv : rsvField cmd = 0
  · rw [← commandWord_fields hrsv, decode_commandWord]
    simp only [opField_commandWord, rsvField_commandWord, idxField_commandWord, ite_eq_iff, reduceCtorEq, and_false, false_or]
    generalize opField cmd = op
    generalize idxField cmd = idx
    revert op idx
    decide
  · exact iff_of_true (decode_of_rsv hrsv) (.inr (.inl hrsv))

/-- Whether a word is legal does not depend on its data word (R55). -/
theorem decode_eq_none_congr {cmd wdata : Word} (wdata' : Word) (h : decode cmd wdata = none) : decode cmd wdata' = none :=
  (decode_eq_none_iff cmd wdata').mpr ((decode_eq_none_iff cmd wdata).mp h)

/-- Settles O4: the kinds are the decoder's failing tests, and the port rejects what does not decode. -/
theorem illegalWordsAreTheFourKinds : Obligations.IllegalWordsAreTheFourKinds := fun cmd wdata =>
  ⟨decode_eq_none_iff cmd wdata, fun h _ => Machine.issueCommand_illegal h⟩

/-- Settles O6: neither an ILLEGAL word nor a command without a word operand reads the data word. -/
theorem unusedWdataIsIgnored : Obligations.UnusedWdataIsIgnored := by
  intro cmd wdata wdata' hunused
  have hd : decode cmd wdata' = decode cmd wdata := by
    cases hd : decode cmd wdata with
    | none => exact decode_eq_none_congr wdata' hd
    | some i =>
      obtain ⟨hwf, -, hcmd⟩ := decode_eq_some_iff.mp hd
      exact decode_eq_some_iff.mpr ⟨hwf, by simp [hunused i hd], hcmd⟩
  exact ⟨hd, fun s => by simp only [Machine.issueCommand, hd]⟩

/-! The rows of the opcode map -/

/-- A mask of R53: OP and RSV in full, and the bits `m` of IDX. -/
def rowMask (m : BitVec 4) : Word := 0xF#4 ++ 0xFFFFFF#24 ++ m

theorem opField_and_rowMask (cmd : Word) (m : BitVec 4) : opField (cmd &&& rowMask m) = opField cmd := by
  have hm : opField (rowMask m) = BitVec.allOnes 4 := by revert m; decide
  rw [opField, BitVec.extractLsb'_and, ← opField, ← opField, hm, BitVec.and_allOnes]

theorem rsvField_and_rowMask (cmd : Word) (m : BitVec 4) : rsvField (cmd &&& rowMask m) = rsvField cmd := by
  have hm : rsvField (rowMask m) = BitVec.allOnes 24 := by revert m; decide
  rw [rsvField, BitVec.extractLsb'_and, ← rsvField, ← rsvField, hm, BitVec.and_allOnes]

theorem idxField_and_rowMask (cmd : Word) (m : BitVec 4) : idxField (cmd &&& rowMask m) = idxField cmd &&& m := by
  have hm : idxField (rowMask m) = m := by revert m; decide
  rw [idxField, BitVec.extractLsb'_and, ← idxField, ← idxField, hm]

/-- A word matches a row when OP is the row's, RSV is 0 and the masked bits of IDX are 0. -/
theorem and_rowMask_eq_iff (cmd : Word) (m op : BitVec 4) :
    cmd &&& rowMask m = commandWord op 0 ↔ opField cmd = op ∧ rsvField cmd = 0 ∧ idxField cmd &&& m = 0 := by
  rw [eq_commandWord_iff, opField_and_rowMask, rsvField_and_rowMask, idxField_and_rowMask]

/-- The row of a mnemonic without an index is one word. -/
theorem decode_eq_some_iff_row {i : Instr} {op : BitVec 4} (hop : i.opcode = some op) (hidx : i.idxOperand = 0)
    (hwf : i.wellFormed = true) (hu : i.usesWdata = false) (cmd wdata : Word) :
    decode cmd wdata = some i ↔ cmd &&& rowMask 0xF = commandWord op 0 := by
  have hF : ∀ idx : BitVec 4, idx &&& 0xF = idx := by decide
  rw [decode_eq_some_iff, and_rowMask_eq_iff, hF, ← eq_commandWord_iff]
  simp [hop, hidx, hwf, hu]

/-- The row of a mnemonic with an index is the words of the indices it admits, those that are 0 under the mask. -/
theorem exists_decode_eq_some_iff_row {i : BitVec 4 → Instr} {op m : BitVec 4} (wdata : Word)
    (hop : ∀ idx, (i idx).opcode = some op) (hidx : ∀ idx, (i idx).idxOperand = idx)
    (hwf : ∀ idx, (i idx).wellFormed = true ↔ idx &&& m = 0)
    (hu : ∀ idx, (i idx).usesWdata = true → wdata = (i idx).wdataOperand) (cmd : Word) :
    (∃ idx, decode cmd wdata = some (i idx)) ↔ cmd &&& rowMask m = commandWord op 0 := by
  rw [and_rowMask_eq_iff]
  simp only [decode_eq_some_iff, hop, hidx, hwf, eq_commandWord_iff, Option.some.injEq]
  constructor
  · rintro ⟨_, hm, -, _, rfl, rfl, hrsv, rfl⟩
    exact ⟨rfl, hrsv, hm⟩
  · rintro ⟨rfl, hrsv, hm⟩
    exact ⟨_, hm, hu _, _, rfl, rfl, hrsv, rfl⟩

/-- The bits of IDX that are 0 in a row's words, by OP. -/
def rowIdxMask : Vector (BitVec 4) 7 := #v[0xF, 0xF, 0x0, 0x8, 0x8, 0xF, 0xF]

/-- A word is legal exactly when it matches the row of its OP. -/
theorem decode_isSome_iff_row (cmd wdata : Word) :
    (decode cmd wdata).isSome = true ↔
      ∃! row : Fin 7, cmd &&& rowMask rowIdxMask[row.val] = commandWord (BitVec.ofNat 4 row.val) 0 := by
  simp only [and_rowMask_eq_iff]
  have hrow : (decode cmd wdata).isSome = true ↔
      ∃ row : Fin 7, opField cmd = BitVec.ofNat 4 row.val ∧ rsvField cmd = 0 ∧
        idxField cmd &&& rowIdxMask[row.val] = 0 := by
    rw [← Option.ne_none_iff_isSome, ne_eq, decode_eq_none_iff]
    by_cases hrsv : rsvField cmd = 0
    · simp only [hrsv]
      generalize opField cmd = op
      generalize idxField cmd = idx
      revert op idx
      decide
    · exact iff_of_false (fun hn => hn (.inr (.inl hrsv))) fun ⟨_, _, h, _⟩ => hrsv h
  have hinj : ∀ row row' : Fin 7, BitVec.ofNat 4 row.val = BitVec.ofNat 4 row'.val → row = row' := by decide
  rw [hrow]
  refine ⟨fun ⟨row, hm⟩ => ⟨row, hm, fun row' hm' => hinj row' row (hm'.1.symm.trans hm.1)⟩, ExistsUnique.exists⟩

/-- Settles O3: the masks are those of `rowMask`, the match words those of an OP alone. -/
theorem legalWordsAreTheTableRows : Obligations.LegalWordsAreTheTableRows := by
  intro cmd wdata
  have hlow : ∀ idx : BitVec 4, idx.toNat < 8 ↔ idx &&& 8 = 0 := by decide
  have hrows : ∀ row : Fin 7,
      (#v[0xFFFFFFFF, 0xFFFFFFFF, 0xFFFFFFF0, 0xFFFFFFF8, 0xFFFFFFF8, 0xFFFFFFFF, 0xFFFFFFFF] : Vector Word 7)[row.val] =
        rowMask rowIdxMask[row.val] ∧
      (#v[0x00000000, 0x10000000, 0x20000000, 0x30000000, 0x40000000, 0x50000000, 0x60000000] : Vector Word 7)[row.val] =
        commandWord (BitVec.ofNat 4 row.val) 0 := by decide
  refine ⟨decode_eq_some_iff_row (op := 0x0) rfl rfl rfl rfl cmd wdata,
    decode_eq_some_iff_row (op := 0x1) rfl rfl rfl rfl cmd wdata, ?_, ?_, ?_,
    decode_eq_some_iff_row (op := 0x5) rfl rfl rfl rfl cmd wdata,
    decode_eq_some_iff_row (op := 0x6) rfl rfl rfl rfl cmd wdata, ?_⟩
  · exact exists_decode_eq_some_iff_row (i := fun idx => .wrm idx wdata) (op := 0x2) (m := 0x0) wdata
      (fun _ => rfl) (fun _ => rfl) (by simp [Instr.wellFormed]) (fun _ _ => rfl) cmd
  · exact exists_decode_eq_some_iff_row (i := fun idx => .wrh idx wdata) (op := 0x3) (m := 0x8) wdata
      (fun _ => rfl) (fun _ => rfl) (by simp [Instr.wellFormed, hlow]) (fun _ _ => rfl) cmd
  · exact exists_decode_eq_some_iff_row (i := .rdh) (op := 0x4) (m := 0x8) wdata
      (fun _ => rfl) (fun _ => rfl) (by simp [Instr.wellFormed, hlow]) (by simp [Instr.usesWdata]) cmd
  · simpa only [hrows] using decode_isSome_iff_row cmd wdata

/-- Settles O5: closed words, decoded by evaluation. -/
theorem sampleWordsDecode : Obligations.SampleWordsDecode := by
  unfold Obligations.SampleWordsDecode
  decide

end Sys2Proof

namespace Sys2Proof.Machine

open Host (Outcome)

/-! A command at the host's turn -/

/-- A host turn with a command item: the word meets the port with the item taken and the earlier response cleared, and the host
receives the response (R49). -/
theorem step_command {s u : State} {item : HostItem} {cmd wdata : Word} {rest : List HostItem} {ts : List Turn}
    (ht : s.turns = .host :: ts) (hp : s.program = item :: rest) (hw : item.words = some (cmd, wdata))
    (hf : s.faulted = false)
    (hu : issueCommand cmd wdata { s with turns := ts, program := rest, rsp := none } = .next u) :
    step s = .next (receive item u) := by
  have hdraw : clearRsp (dropItem rest (drawTurn s)) = { s with turns := ts, program := rest, rsp := none } := by
    simp [clearRsp, dropItem, drawTurn, ht]
  rw [step_host (nextTurn_cons ht)]
  exact hostTurn_cons (s := drawTurn s) hp hw hf (hdraw ▸ hu)

/-- Settles O7: the host receives what the command answers. -/
theorem stepRunsTheDecodedCommand : Obligations.StepRunsTheDecodedCommand := by
  intro s cmd wdata p ts i ht hp hf hd
  obtain ⟨u, hu, -⟩ := exec_command i { s with turns := ts, program := p, rsp := none } (decode_some hd).1
  rw [hu, step_command ht hp rfl hf ((issueCommand_legal hd).trans hu)]
  rfl

/-- Settles O9: RDSTAT answers STATUS, whose bit 0 the host reads. -/
theorem waitPollsWhileBusy : Obligations.WaitPollsWhileBusy := by
  intro s p ts ht hp hf
  have hd : decode 0x60000000 0 = some .rdstat := by decide
  rw [step_command ht hp rfl hf (issueCommand_legal hd)]
  simp only [receive, respond, HostItem.repeats, Status.word_busy, Option.toList_some]

/-- Settles O22: no entry of H has the index. -/
theorem indexBeyondHIsIllegal : Obligations.IndexBeyondHIsIllegal := fun s _ word h =>
  ⟨execWrh_range word s h, execRdh_range s h⟩

/-! The response of a command -/

/-- A command other than RDSTAT and an accepted RDH answers 0, unless it raises the model fault. -/
theorem CommandResult.rsp_zero {s t : State} {i : Instr} (hr : CommandResult s i t) (hf : t.faulted = false)
    (hstat : i ≠ .rdstat) (hrdh : s.status.busy = true ∨ ∀ idx, i ≠ .rdh idx) : t.rsp = some 0 := by
  cases hr with
  | rdstat => exact absurd rfl hstat
  | rdh idx _ hb => simp [hb] at hrdh
  | unwritten => simp at hf
  | _ => rfl

/-- Settles O23: the RDH and RDSTAT answers by their meanings, every other by the cases of a command. -/
theorem responseOfEveryCommand : Obligations.ResponseOfEveryCommand := by
  intro cmd wdata s t _ ht hft
  refine ⟨fun idx h hd hb => ?_, fun hd => ?_, fun hstat hrdh => ?_⟩
  · rw [issueCommand_legal hd] at ht
    obtain rfl := Outcome.next.inj ((execRdh_idle h hb).symm.trans ht)
    rfl
  · rw [issueCommand_legal hd] at ht
    obtain rfl := Outcome.next.inj ht
    rfl
  · obtain ⟨-, rfl⟩ | ⟨i, hd, -, hr⟩ := issueCommand_cases ht
    · rfl
    · simp only [hd, ne_eq, Option.some.injEq] at hstat hrdh
      exact hr.rsp_zero hft hstat hrdh

/-! The assembler -/

/-- The item puts a legal word on the port. -/
def HostItem.Legal (item : HostItem) : Prop := ∃ cmd word, item.words = some (cmd, word) ∧ decode cmd word ≠ none

/-- The command of a well-formed instruction is legal (R61). -/
theorem HostItem.legal_of_encode {i : Instr} {cmd word : Word} (hwf : i.wellFormed = true)
    (he : encode i = some (cmd, word)) : (HostItem.command cmd word).Legal :=
  ⟨cmd, word, rfl, by simp [decode_encode hwf he]⟩

theorem HostItem.legal_of_assembleInstr {i : Instr} {items : List HostItem} (hwf : i.wellFormed = true)
    (h : assembleInstr i = some items) : ∀ item ∈ items, item.Legal := by
  obtain ⟨⟨cmd, word⟩, he, rfl⟩ := Option.map_eq_some_iff.mp h
  simpa using HostItem.legal_of_encode hwf he

theorem HostItem.legal_wait : HostItem.wait.Legal := ⟨_, _, rfl, by decide⟩

theorem wrblockItems_legal (block : Block) : ∀ item ∈ wrblockItems block, item.Legal := by
  intro item hitem
  obtain ⟨k, -, rfl⟩ := List.mem_map.mp hitem
  exact HostItem.legal_of_encode (i := .wrm (BitVec.ofNat 4 k.val) block[k.val]) rfl rfl

/-- An index in the range of H is a well-formed operand of RDH and of WRH. -/
theorem wellFormed_ofNat {n : Nat} (h : n < 8) :
    (Instr.rdh (BitVec.ofNat 4 n)).wellFormed = true ∧ ∀ word, (Instr.wrh (BitVec.ofNat 4 n) word).wellFormed = true := by
  simp [Instr.wellFormed, Nat.mod_lt_of_lt h]

theorem rddigestItems_legal : ∀ item ∈ rddigestItems, item.Legal := by
  intro item hitem
  obtain ⟨k, -, rfl⟩ := List.mem_map.mp hitem
  exact HostItem.legal_of_encode (i := .rdh (BitVec.ofNat 4 k.val)) (wellFormed_ofNat k.isLt).1 rfl

theorem compressItems_legal (block : Block) : ∀ item ∈ compressItems block, item.Legal := by
  intro item hitem
  simp only [compressItems, List.mem_append, List.mem_cons, List.not_mem_nil, or_false] at hitem
  obtain hitem | rfl | rfl := hitem
  · exact wrblockItems_legal block item hitem
  · exact HostItem.legal_of_encode (i := .start) rfl rfl
  · exact HostItem.legal_wait

/-- Every line but `.cmd` assembles to legal items, the pseudo-instructions of R62 included. -/
theorem assemble_legal {line : AsmLine} {items : List HostItem} (h : assemble line = some items)
    (hraw : ∀ cmd word, line ≠ .cmd cmd word) : ∀ item ∈ items, item.Legal := by
  cases line with
  | nop | init | start | rdstat => exact HostItem.legal_of_assembleInstr rfl h
  | wrm idx word =>
    obtain ⟨-, h⟩ := Option.ite_none_right_eq_some.mp h
    exact HostItem.legal_of_assembleInstr rfl h
  | wrh idx word =>
    obtain ⟨hidx, h⟩ := Option.ite_none_right_eq_some.mp h
    exact HostItem.legal_of_assembleInstr ((wellFormed_ofNat hidx).2 word) h
  | rdh idx =>
    obtain ⟨hidx, h⟩ := Option.ite_none_right_eq_some.mp h
    exact HostItem.legal_of_assembleInstr (wellFormed_ofNat hidx).1 h
  | cmd cmd word => exact absurd rfl (hraw cmd word)
  | wrblock block => exact Option.some.inj h ▸ wrblockItems_legal block
  | rddigest => exact Option.some.inj h ▸ rddigestItems_legal
  | wait => exact Option.some.inj h ▸ by simpa using HostItem.legal_wait
  | compress block => exact Option.some.inj h ▸ compressItems_legal block

/-- Settles O56: legal items from every other line, and the range tests of the three indexed mnemonics. -/
theorem onlyRawLinesAssembleIllegalWords : Obligations.OnlyRawLinesAssembleIllegalWords :=
  ⟨fun _ _ h hraw => assemble_legal h hraw,
    fun _ _ => ⟨fun h => if_neg (by omega), fun h => ⟨if_neg (by omega), if_neg (by omega)⟩⟩⟩

/-! The pins -/

/-- What a command writes while BUSY = 1: the response, ERR and CAUSE (R51). -/
def portWrites (v : Word) (err : Bool) (cause : Cause) (s : State) : State :=
  { s with rsp := some v, status := { s.status with err := err, cause := cause } }

/-- While BUSY = 1 a command reads only STATUS. -/
theorem issueCommand_of_busy (cmd wdata : Word) {st : Status} (hb : st.busy = true) :
    ∃ v err cause, ∀ s : State, s.status = st → issueCommand cmd wdata s = .next (portWrites v err cause s) := by
  cases hd : decode cmd wdata with
  | none =>
    refine ⟨0, true, (st.error .illegalCmd).cause, ?_⟩
    rintro s rfl
    exact issueCommand_illegal hd
  | some i =>
    obtain ⟨hi, hwf⟩ := decode_some hd
    simp only [issueCommand_legal hd]
    cases hl : i.legalWhileBusy with
    | false =>
      refine ⟨0, true, (st.error .busyViolation).cause, ?_⟩
      rintro s rfl
      exact exec_of_busy hi hwf hl hb
    | true =>
      cases i with
      | nop => exact ⟨0, st.err, st.cause, by rintro s rfl; rfl⟩
      | rdstat => exact ⟨st.word, st.err, st.cause, by rintro s rfl; rfl⟩
      | _ => cases hl

theorem pinEdge_shared {p : PinsIn} {s c e : State} (hrst : p.rst = false) (hb : s.status.busy = true)
    (hc : portEdge p s = .next c) (he : engineTurn s = .next e) : pinEdge p true s = .next (mergeEdge c e) := by
  simp [pinEdge, hrst, hb, hc, he]

/-- Settles O57: the command leaves the engine step its operands, and the step leaves ERR, CAUSE and the response. -/
theorem sharedEdgeIsCommandThenEngineStep : Obligations.SharedEdgeIsCommandThenEngineStep := by
  intro s p hb hj hf hrst hvalid
  obtain ⟨v, err, cause, hcmd⟩ := issueCommand_of_busy p.cmd p.wdata hb
  have hport : portEdge p s = .next (portWrites v err cause s) := by
    simp only [portEdge, hvalid, if_true, acceptCommand_clear hf]
    exact hcmd (clearRsp s) rfl
  have hhost : step { s with program := [.command p.cmd p.wdata], turns := [.host, .engine] } =
      .next (portWrites v err cause { s with program := [], turns := [.engine], received := s.received ++ [v] }) :=
    step_command (s := { s with program := [.command p.cmd p.wdata], turns := [.host, .engine] }) rfl rfl rfl hf (hcmd _ rfl)
  have hrun : ∀ u,
      engineTurn (portWrites v err cause { s with program := [], turns := [], received := s.received ++ [v] }) = .next u →
      runSteps 2 { s with program := [.command p.cmd p.wdata], turns := [.host, .engine] } = .next u := by
    intro u hu
    rw [runSteps_succ hhost]
    exact runSteps_succ (n := 0) ((step_engine rfl).trans hu)
  rcases Nat.lt_or_eq_of_le hj with hj | hj
  · exact ⟨_, _, pinEdge_shared hrst hb hport (engineTurn_round hb hj),
      hrun _ (engineTurn_round (by exact hb) (by exact hj)), rfl⟩
  · exact ⟨_, _, pinEdge_shared hrst hb hport (engineTurn_final hb hj),
      hrun _ (engineTurn_final (by exact hb) (by exact hj)), rfl⟩

/-- Every command but a faulting START gives its own response, so that of an earlier command is not read. -/
theorem CommandResult.exec_of_clearRsp {s u : State} {i : Instr} (hr : CommandResult (clearRsp s) i u)
    (hwf : i.wellFormed = true) (hf : u.faulted = false) : exec i s = .next u ∧ u.rsp.isSome = true := by
  cases hr with
  | nop => exact ⟨rfl, rfl⟩
  | rdstat => exact ⟨rfl, rfl⟩
  | busy hi hl hb => exact ⟨exec_of_busy hi hwf hl hb, rfl⟩
  | range _ hw => simp [hwf] at hw
  | init hb => exact ⟨execInit_idle hb, rfl⟩
  | wrm idx word hb => exact ⟨execWrm_idle idx word hb, rfl⟩
  | wrh idx word h hb => exact ⟨execWrh_idle word h hb, rfl⟩
  | rdh idx h hb => exact ⟨execRdh_idle h hb, rfl⟩
  | start hb hw => exact ⟨execStart_written hb hw, rfl⟩
  | unwritten => simp at hf

theorem issueCommand_of_clearRsp {cmd wdata : Word} {s u : State} (hu : issueCommand cmd wdata (clearRsp s) = .next u)
    (hf : u.faulted = false) : issueCommand cmd wdata s = .next u ∧ u.rsp.isSome = true := by
  obtain ⟨hd, rfl⟩ | ⟨i, hd, hwf, hr⟩ := issueCommand_cases hu
  · exact ⟨issueCommand_illegal hd, rfl⟩
  · rw [issueCommand_legal hd]
    exact hr.exec_of_clearRsp hwf hf

/-- At an edge without reset the response and `faulted` are the port's: an engine step writes neither (R51). -/
theorem pinEdge_port {p : PinsIn} {advance : Bool} {s t : State} (hrst : p.rst = false)
    (h : pinEdge p advance s = .next t) : ∃ c, portEdge p s = .next c ∧ t.rsp = c.rsp ∧ t.faulted = c.faulted := by
  simp only [pinEdge, hrst, Bool.false_eq_true, if_false] at h
  split at h
  · split at h
    next c e hc _ =>
      obtain rfl := Outcome.next.inj h
      exact ⟨c, hc, rfl, rfl⟩
    all_goals cases h
  · exact ⟨t, h, rfl, rfl⟩

/-- Settles O60: the response after an edge is the port's. -/
theorem responsePinsLastOneCycle : Obligations.ResponsePinsLastOneCycle := by
  intro s t p advance hrst h
  obtain ⟨c, hc, hrsp, hfaulted⟩ := pinEdge_port hrst h
  have hout : pinsOut t = pinsOut c := by simp [pinsOut, hrsp]
  rw [hout]
  refine ⟨fun hnone => ?_, fun hvalid hft => ?_⟩
  · obtain rfl : clearRsp s = c := by simpa [portEdge, hnone] using hc
    rfl
  · simp only [portEdge, hvalid, if_true] at hc
    have hfs : s.faulted = false := by
      by_contra hfs
      simp [acceptCommand_faulted (Bool.of_not_eq_false hfs)] at hc
    rw [acceptCommand_clear hfs] at hc
    obtain ⟨hu, hsome⟩ := issueCommand_of_clearRsp hc (hfaulted ▸ hft)
    exact ⟨c, hu, by simp [pinsOut, hsome], hsome⟩

end Sys2Proof.Machine
end

section
/-! PROOFS. The rules of 40_datapath.md: the bits of the combinational functions, and the adder trees. -/

namespace Sys2Proof.Machine

/-! Rotations, shifts and the sigma functions -/

/-- R64: below bit 32 - n the right shift gives the bit, from there on the left shift. -/
theorem ROTR_getLsbD (x : Word) {n i : Nat} (hn : n ≤ 32) (hi : i < 32) :
    (ROTR x n).getLsbD i = x.getLsbD ((i + n) % 32) := by
  rw [ROTR, BitVec.getLsbD_or, BitVec.getLsbD_ushiftRight, BitVec.getLsbD_shiftLeft, Nat.add_comm n i]
  by_cases h : i + n < 32
  · have hlow : i < 32 - n := by omega
    simp [hlow, Nat.mod_eq_of_lt h]
  · have hhigh : ¬ i < 32 - n := by omega
    have hwrap : (i + n) % 32 = i - (32 - n) := by omega
    simp [hi, hhigh, hwrap, BitVec.getLsbD_of_ge x (i + n) (by omega)]

/-- R65: the shift fills with zeros from above. -/
theorem SHR_getLsbD (x : Word) {n : Nat} (hn : n < 32) (i : Nat) :
    (SHR x n).getLsbD i = if i ≤ 31 - n then x.getLsbD (i + n) else false := by
  rw [SHR, BitVec.getLsbD_ushiftRight, Nat.add_comm n i]
  split
  · rfl
  · exact BitVec.getLsbD_of_ge _ _ (by omega)

/-- The form of SSIG0 and SSIG1 (R66, R67). -/
theorem xor_ROTR_ROTR_SHR_getLsbD (x : Word) {l m n i : Nat} (hl : l ≤ 32) (hm : m ≤ 32) (hn : n < 32) (hi : i < 32) :
    (ROTR x l ^^^ ROTR x m ^^^ SHR x n).getLsbD i =
      ((x.getLsbD ((i + l) % 32) ^^ x.getLsbD ((i + m) % 32)) ^^ (if i ≤ 31 - n then x.getLsbD (i + n) else false)) := by
  rw [BitVec.getLsbD_xor, BitVec.getLsbD_xor, ROTR_getLsbD x hl hi, ROTR_getLsbD x hm hi, SHR_getLsbD x hn]

/-- The form of BSIG0 and BSIG1 (R68, R69). -/
theorem xor_ROTR_ROTR_ROTR_getLsbD (x : Word) {l m n i : Nat} (hl : l ≤ 32) (hm : m ≤ 32) (hn : n ≤ 32) (hi : i < 32) :
    (ROTR x l ^^^ ROTR x m ^^^ ROTR x n).getLsbD i =
      ((x.getLsbD ((i + l) % 32) ^^ x.getLsbD ((i + m) % 32)) ^^ x.getLsbD ((i + n) % 32)) := by
  rw [BitVec.getLsbD_xor, BitVec.getLsbD_xor, ROTR_getLsbD x hl hi, ROTR_getLsbD x hm hi, ROTR_getLsbD x hn hi]

/-- Settles O46: the formula is ROTR's definition, and one of its two shifts gives each bit. -/
theorem rotrMovesEveryBit : Obligations.RotrMovesEveryBit :=
  fun x _ _ hn hi => ⟨rfl, ROTR_getLsbD x hn hi⟩

/-- Settles O47: each sigma has one of two forms, with its own amounts. -/
theorem sigmaBits : Obligations.SigmaBits :=
  fun x _ hi =>
    ⟨xor_ROTR_ROTR_SHR_getLsbD x (by decide) (by decide) (by decide) hi,
      xor_ROTR_ROTR_SHR_getLsbD x (by decide) (by decide) (by decide) hi,
      xor_ROTR_ROTR_ROTR_getLsbD x (by decide) (by decide) (by decide) hi,
      xor_ROTR_ROTR_ROTR_getLsbD x (by decide) (by decide) (by decide) hi⟩

/-! Choose and majority -/

/-- R70; from bit 32 on all bits are 0, so the complement there selects nothing. -/
theorem CH_getLsbD (e f g : Word) (i : Nat) :
    (CH e f g).getLsbD i = if e.getLsbD i then f.getLsbD i else g.getLsbD i := by
  simp only [CH, BitVec.getLsbD_xor, BitVec.getLsbD_and, BitVec.getLsbD_not]
  by_cases hi : i < 32
  · cases e.getLsbD i <;> simp [hi]
  · simp [BitVec.getLsbD_of_ge _ i (Nat.le_of_not_lt hi)]

theorem MAJ_getLsbD (a b c : Word) (i : Nat) :
    (MAJ a b c).getLsbD i =
      (((a.getLsbD i && b.getLsbD i) ^^ (a.getLsbD i && c.getLsbD i)) ^^ (b.getLsbD i && c.getLsbD i)) := by
  simp only [MAJ, BitVec.getLsbD_xor, BitVec.getLsbD_and]

/-- The xor of the pairwise conjunctions is the majority: with all three bits 1 it is an xor of three ones. -/
theorem xor_pairwise_and_iff_two_le (p q r : Bool) :
    (((p && q) ^^ (p && r)) ^^ (q && r)) = true ↔
      2 ≤ ((if p then 1 else 0) + (if q then 1 else 0) + (if r then 1 else 0) : Nat) := by
  revert p q r; decide

/-- Settles O48: CH and MAJ act on each bit alone. -/
theorem chooseAndMajorityByBits : Obligations.ChooseAndMajorityByBits := by
  intro x y z i
  refine ⟨CH_getLsbD x y z i, ?_⟩
  rw [MAJ_getLsbD]
  exact xor_pairwise_and_iff_two_le _ _ _

/-! Adder trees -/

theorem SUM_toNat (xs : List Word) : (SUM xs).toNat = (xs.map BitVec.toNat).sum % 2 ^ 32 := BitVec.toNat_ofNat _ _

/-- R73: addition modulo 2^32 may truncate at every operand. -/
theorem SUM_eq_sum (xs : List Word) : SUM xs = xs.sum := by
  induction xs with
  | nil => rfl
  | cons x xs ih => rw [SUM_cons, ih, List.sum_cons]

theorem SUM_perm {xs ys : List Word} (h : xs.Perm ys) : SUM xs = SUM ys := by
  rw [SUM_eq_sum, SUM_eq_sum, h.sum_eq]

theorem SUM_append (xs ys : List Word) : SUM (xs ++ ys) = ADD32 (SUM xs) (SUM ys) := by
  simp only [SUM_eq_sum, ADD32_eq_add, List.sum_append]

theorem SUM_pair (x y : Word) : SUM [x, y] = ADD32 x y := rfl

/-- Settles O49: SUM is the sum in the commutative monoid of words. -/
theorem adderTreeShapeIsUnobservable : Obligations.AdderTreeShapeIsUnobservable :=
  ⟨SUM_toNat, fun _ _ => SUM_perm, SUM_append⟩

/-- R76: the T1 tree and the T2 adder joined by ADD32 are SUM7. -/
theorem ADD32_T1_T2 (r : Working) (k w : Word) :
    ADD32 (T1 r k w) (T2 r) = SUM [r.h, BSIG1 r.e, CH r.e r.f r.g, k, w, BSIG0 r.a, MAJ r.a r.b r.c] := by
  rw [T1, T2, ← SUM_pair (BSIG0 r.a), ← SUM_append]
  rfl

/-- R76: the T1 tree with d added is SUM6. -/
theorem ADD32_d_T1 (r : Working) (k w : Word) :
    ADD32 r.d (T1 r k w) = SUM [r.d, r.h, BSIG1 r.e, CH r.e r.f r.g, k, w] := by
  rw [T1, SUM_cons r.d, ADD32_eq_add]

/-- Settles O50: both updates extend the one T1 tree. -/
theorem roundUpdatesAreSingleSums : Obligations.RoundUpdatesAreSingleSums :=
  fun r k w => ⟨ADD32_T1_T2 r k w, ADD32_d_T1 r k w, rfl, rfl⟩

end Sys2Proof.Machine
end

section
/-! PROOFS. The rules of 42_schedule.md: the schedule as a fixed point of EXPAND, and the course of a running compression. -/

namespace Sys2Proof.Machine

/-! The schedule of a block -/

/-- The first 16 + n words of the schedule are those of its first n expansions. -/
theorem schedule_get_of_scheduleUpTo {M : Block} {n : Nat} (hn : n ≤ 48) (k : Fin 64) (hk : k.val < 16 + n) :
    (schedule M)[k.val] = (scheduleUpTo M n)[k.val] := scheduleUpTo_get hn k hk

theorem schedule_get_low (M : Block) (k : Fin 64) (hk : k.val < 16) : (schedule M)[k.val] = M[k.val] :=
  (schedule_get_of_scheduleUpTo (Nat.zero_le 48) k hk).trans (loadSchedule_get_low _ M k hk)

/-- R87: a word is computed from words that the later expansions no longer change. -/
theorem schedule_get_high (M : Block) {j : Fin 64} (hj : 16 ≤ j.val) :
    (schedule M)[j.val] = scheduleWord (schedule M) j := by
  obtain ⟨n, hn⟩ := Nat.exists_eq_add_of_le hj
  have hn64 : 16 + n < 64 := hn ▸ j.isLt
  obtain rfl : j = ⟨16 + n, hn64⟩ := Fin.ext hn
  calc (schedule M)[16 + n]
      = (scheduleUpTo M (n + 1))[16 + n] :=
        schedule_get_of_scheduleUpTo (by omega) ⟨16 + n, hn64⟩ (Nat.lt_succ_self (16 + n))
    _ = scheduleWord (scheduleUpTo M n) ⟨16 + n, hn64⟩ := by
        simp [scheduleUpTo_succ M n hn64, expand_high hj]
    _ = scheduleWord (schedule M) ⟨16 + n, hn64⟩ :=
        scheduleWord_congr hj fun k hk => (schedule_get_of_scheduleUpTo (by omega) k hk).symm

/-- Settles O51: the recurrence at j is what `scheduleWord` computes there. -/
theorem scheduleMeetsItsRecurrence : Obligations.ScheduleMeetsItsRecurrence :=
  fun M => ⟨fun i => schedule_get_low M ⟨i.val, by omega⟩ i.isLt, fun j h h' => schedule_get_high M (j := ⟨j, h'⟩) h⟩

/-- EXPAND rewrites each word of the schedule to itself. -/
theorem expand_schedule (M : Block) (j : Fin 64) : expand (schedule M) j = schedule M := by
  rcases Nat.lt_or_ge j.val 16 with hlow | hhigh
  · exact expand_low hlow
  · rw [expand_high hhigh, ← schedule_get_high M hhigh, Vector.set_getElem_self]

/-! A running compression -/

namespace InFlight

variable {s t : State}

theorem of_idle (hb : s.status.busy = false) : InFlight s := fun h => by simp [hb] at h

/-- The invariant speaks of the six elements of R14 only, and of STATUS only by BUSY. -/
theorem congr (hf : InFlight s) (hH : t.H = s.H) (hM : t.M = s.M) (hwork : t.work = s.work) (hW : t.W = s.W)
    (hj : t.j = s.j) (hb : t.status.busy = s.status.busy) : InFlight t := by
  simpa only [InFlight, hH, hM, hwork, hW, hj, hb] using hf

theorem sameEngine (hf : InFlight s) (e : SameEngine s t) : InFlight t :=
  hf.congr e.H e.M e.work e.W e.j (congrArg Status.busy e.status)

/-- An error changes neither BUSY nor what the engine works on (R117). -/
theorem reject (hf : InFlight s) (c : Cause) : InFlight (reject c s) := hf.congr rfl rfl rfl rfl rfl rfl

/-- After LOAD no round is done and the block is written (R92). -/
theorem start (s : State) : InFlight (setBusy (load s)) := fun _ => by
  refine ⟨Nat.zero_le 64, rfl, fun k hk => ?_⟩
  have hk : k.val < 16 := by simpa using hk
  exact (loadSchedule_get_low s.W s.M k hk).trans (schedule_get_low s.M k hk).symm

/-- EXPAND writes W[j] as the source precomputes it (R89), and the round then done is the loop's next. -/
theorem roundStep (hf : InFlight s) (hb : s.status.busy = true) (hj : s.j.toNat < 64) :
    InFlight (roundStep ⟨s.j.toNat, hj⟩ s) := fun _ => by
  obtain ⟨-, hwork, hW⟩ := hf hb
  have hexp : ∀ k : Fin 64, k.val < 16 ∨ k.val < s.j.toNat + 1 →
      (expand s.W ⟨s.j.toNat, hj⟩)[k.val] = (schedule s.M)[k.val] := fun k hk => by
    rw [expand_congr (j := ⟨s.j.toNat, hj⟩) hW k hk, expand_schedule]
  have hwj := hexp ⟨s.j.toNat, hj⟩ (.inr (Nat.lt_succ_self _))
  rw [roundStep_j, counter_succ hj]
  refine ⟨hj, ?_, hexp⟩
  rw [roundStep_work, roundStep_M, roundStep_H, rounds_succ _ _ _ hj, ← hwork, hwj]

end InFlight

/-- Settles O40: START sets the course, a ROUND follows it, FINAL and reset end it; a command that writes H or M is carried
out only where no compression runs. -/
theorem everyStepKeepsInFlight : Obligations.EveryStepKeepsInFlight := by
  intro s t hf h
  cases step_effect h with
  | quiet e => exact hf.sameEngine e
  | illegal e | busy e => exact (hf.reject _).sameEngine e
  | start e => exact (InFlight.start s).sameEngine e
  | round e _ hb => exact (hf.roundStep hb _).sameEngine e
  | final e | reset e => exact .of_idle (by simp [e.status])
  | init e _ _ hb | wrm e _ _ hb | wrh e _ _ hb | unwritten e _ _ hb => exact .of_idle (by simp [e.status, hb])

end Sys2Proof.Machine
end

section
/-! PROOFS. The rules of 43_compression.md: the engine's two steps, the turn that takes them, and a running compression under any
order of turns. -/

namespace Sys2Proof.Machine

open Host (Outcome)

/-! The engine's turn and its steps -/

theorem drawTurn_cons {s : State} {t : Turn} {ts : List Turn} (h : s.turns = t :: ts) :
    drawTurn s = { s with turns := ts } := by simp [drawTurn, h]

/-- Settles O10: an engine turn runs the step the sequencer enables. -/
theorem engineTurnTakesTheEnabledStep : Obligations.EngineTurnTakesTheEnabledStep := by
  intro s ts ht
  rw [step_engine (nextTurn_cons ht), drawTurn_cons ht]
  refine ⟨fun hb => engineTurn_idle hb, fun hb hj => ?_, fun hb hj => ?_, fun hb hj => engineTurn_range hb hj⟩
  · have hj : s.j.toNat < 64 := Nat.lt_succ_of_le hj
    exact (engineTurn_round (by exact hb) (by exact hj)).trans (execRound_enabled (by exact hb) (by exact hj)).symm
  · exact (engineTurn_final (by exact hb) (by exact hj)).trans (execFinal_enabled (by exact hb) (by exact hj)).symm

theorem execRound_of_not_enabled {s : State} (h : ¬(s.status.busy = true ∧ s.j.toNat ≤ 63)) :
    execRound s = .fault .engineStepNotEnabled := by
  cases hb : s.status.busy with
  | false => simp [execRound, hb]
  | true =>
    have hj : 64 ≤ s.j.toNat := Nat.lt_of_not_le fun hj => h ⟨hb, hj⟩
    simp [execRound, hb, roundIndex_of_ge hj]

/-- Settles O28: each meaning's guard is the sequencer's. -/
theorem engineStepsStopWhereNotEnabled : Obligations.EngineStepsStopWhereNotEnabled :=
  fun _ => ⟨execRound_of_not_enabled, fun h => if_neg h⟩

/-- R97: the step an engine turn takes reads neither the program nor M nor the response. -/
theorem engineTurn_of_inv {s : State} (hi : Inv s) :
    ∃ t, engineTurn s = .next t ∧
      (s.status.busy = true → engineStepEnabled s = some .round ∨ engineStepEnabled s = some .final) ∧
      ∀ (program : List HostItem) (M : Block) (rsp : Option Word),
        engineTurn { s with program := program, M := M, rsp := rsp } =
          .next { t with program := program, M := M, rsp := rsp } := by
  cases hb : s.status.busy with
  | false => exact ⟨s, engineTurn_idle hb, nofun, fun _ _ _ => engineTurn_idle hb⟩
  | true =>
    rcases Nat.lt_or_eq_of_le (hi.counter hb) with hj | hj
    · exact ⟨_, engineTurn_round hb hj, fun _ => .inl (engineStepEnabled_round hb hj),
        fun _ _ _ => engineTurn_round (by exact hb) (by exact hj)⟩
    · exact ⟨_, engineTurn_final hb hj, fun _ => .inr (engineStepEnabled_final hb hj),
        fun _ _ _ => engineTurn_final (by exact hb) (by exact hj)⟩

/-- Settles O27: drawing the turn changes nothing that the engine reads. -/
theorem engineNeverStopsOrWaits : Obligations.EngineNeverStopsOrWaits := by
  intro s hi ht
  obtain ⟨t, hstep, henabled, hsame⟩ := engineTurn_of_inv (s := drawTurn s) (hi.congr rfl rfl rfl)
  exact ⟨t, (step_engine ht).trans hstep, henabled, fun program M rsp =>
    (step_engine (s := { s with program := program, M := M, rsp := rsp }) ht).trans (hsame program M rsp)⟩

/-- Settles O25: only EXPAND writes W, and only at j; the rest is the definition of a round. -/
theorem roundCompletes : Obligations.RoundCompletes := by
  intro s hj hb
  refine ⟨_, execRound_enabled hb hj, fun k hk => ?_, fun hlow => expand_low hlow, fun hhigh => ?_,
    rfl, rfl, rfl, rfl, rfl, rfl, rfl, rfl, counter_succ hj, rfl, rfl, rfl, ⟨rfl, rfl⟩, rfl, rfl, rfl, rfl, rfl⟩
  · exact expand_get_ne s.W ⟨s.j.toNat, hj⟩ k (fun h => hk (congrArg Fin.val h))
  · rw [roundStep_W, expand_high (by exact hhigh), Vector.getElem_set_self]
    rfl

/-- Settles O26: the feed-forward adders write H, and an idle engine has no step. -/
theorem finalCompletes : Obligations.FinalCompletes := by
  intro s hb hj
  refine ⟨_, execFinal_enabled hb hj, fun i => ?_, rfl, rfl, rfl, rfl, rfl, ⟨rfl, rfl⟩, ⟨rfl, rfl, rfl⟩,
    ⟨rfl, rfl, rfl, rfl, rfl⟩, engineStepEnabled_idle rfl⟩
  rw [finalStep_H, feedForward_get]
  exact BitVec.toNat_ofNat _ _

/-! A running compression under any order of turns -/

/-- The compression running at `s` still runs at `t`, from the same H and M. -/
structure StillRunning (s t : State) : Prop where
  H : t.H = s.H
  message : SameMessage s t
  busy : t.status.busy = true
  faulted : t.faulted = false

theorem StillRunning.trans {s t u : State} (hst : StillRunning s t) (htu : StillRunning t u) : StillRunning s u where
  H := htu.H.trans hst.H
  message := ⟨htu.message.1.trans hst.message.1, htu.message.2.trans hst.message.2⟩
  busy := htu.busy
  faulted := htu.faulted

/-- Whatever the host issues, its turn leaves a running compression where it is (R51). -/
theorem hostTurn_running {s : State} (hb : s.status.busy = true) (hf : s.faulted = false) :
    ∃ u, hostTurn s = .next u ∧ StillRunning s u ∧ u.j = s.j := by
  cases hp : s.program with
  | nil => exact ⟨s, hostTurn_nil hp, ⟨rfl, ⟨rfl, rfl⟩, hb, hf⟩, rfl⟩
  | cons item rest =>
    cases hw : item.words with
    | none =>
      obtain rfl := HostItem.words_eq_none.mp hw
      exact ⟨_, hostTurn_mark hp, ⟨rfl, ⟨rfl, rfl⟩, hb, hf⟩, rfl⟩
    | some w =>
      obtain ⟨cmd, wdata⟩ := w
      obtain ⟨v, err, cause, hcmd⟩ := issueCommand_of_busy cmd wdata hb
      exact ⟨_, hostTurn_cons hp hw hf (hcmd _ rfl), ⟨rfl, ⟨rfl, rfl⟩, hb, hf⟩, rfl⟩

/-- Before FINAL a turn of the host keeps the round counter, and a turn of the engine counts it up. -/
theorem act_running {s : State} {t : Turn} (hb : s.status.busy = true) (hf : s.faulted = false) (ht : t ≠ .reset)
    (hj : s.j.toNat + [t].count .engine ≤ 64) :
    ∃ u, act t s = .next u ∧ StillRunning s u ∧ u.j.toNat = s.j.toNat + [t].count .engine := by
  cases t with
  | reset => exact absurd rfl ht
  | host =>
    obtain ⟨u, hu, hrun, huj⟩ := hostTurn_running hb hf
    exact ⟨u, hu, hrun, congrArg BitVec.toNat huj⟩
  | engine =>
    have hj : s.j.toNat < 64 := hj
    exact ⟨_, engineTurn_round hb hj, ⟨rfl, ⟨rfl, rfl⟩, hb, hf⟩, counter_succ hj⟩

/-- What FINAL leaves of a compression that ran at `s` (R95). -/
def Compressed (s t : State) : Prop :=
  t.H = compress s.H s.M ∧ t.status.busy = false ∧ t.status.done = true ∧ SameMessage s t ∧ t.faulted = false

theorem StillRunning.compressed {s t u : State} (hst : StillRunning s t) (htu : Compressed t u) : Compressed s u := by
  obtain ⟨hM, hMvalid⟩ := hst.message
  obtain ⟨hH, hb, hd, ⟨hM', hMvalid'⟩, hf⟩ := htu
  exact ⟨by rw [hH, hst.H, hM], hb, hd, ⟨hM'.trans hM, hMvalid'.trans hMvalid⟩, hf⟩

/-- After 64 rounds the working registers are those of COMPRESS's loop, which FINAL adds into H. -/
theorem finalStep_compressed {s : State} (hc : InFlight s) (hb : s.status.busy = true) (hf : s.faulted = false)
    (hj : s.j.toNat = 64) : Compressed s (finalStep s) := by
  obtain ⟨-, hwork, -⟩ := hc hb
  refine ⟨?_, rfl, rfl, ⟨rfl, rfl⟩, hf⟩
  rw [finalStep_H, hwork, hj, compress]

/-- The turns of a running compression's host and engine, as many of the engine's as rounds are to come, and FINAL's. -/
theorem runSteps_compressed {s : State} {ts : List Turn} (hc : InFlight s) (hb : s.status.busy = true)
    (hf : s.faulted = false) (hts : s.turns = ts ++ [.engine]) (hnr : Turn.reset ∉ ts)
    (hj : s.j.toNat + ts.count .engine = 64) : ∃ t, runSteps (ts.length + 1) s = .next t ∧ Compressed s t := by
  induction ts generalizing s with
  | nil =>
    have hstep : step s = .next (finalStep (drawTurn s)) :=
      (step_engine (nextTurn_cons hts)).trans (engineTurn_final (by exact hb) (by exact hj))
    exact ⟨_, runSteps_succ hstep, finalStep_compressed (s := drawTurn s) hc hb hf hj⟩
  | cons t ts ih =>
    obtain ⟨hne, hnr⟩ := not_or.mp (List.mem_cons.not.mp hnr)
    have hcount : (t :: ts).count .engine = [t].count .engine + ts.count .engine := List.count_append (l₁ := [t])
    obtain ⟨u, hu, hrun, huj⟩ := act_running (s := drawTurn s) hb hf (Ne.symm hne) (by simp only [drawTurn_j]; omega)
    have hstep : step s = .next u := by rw [step, nextTurn_cons hts, hu]
    have hut : u.turns = ts ++ [.engine] := by rw [step_turns hstep, hts]; rfl
    obtain ⟨v, hv, hcomp⟩ := ih (everyStepKeepsInFlight s u hc hstep) hrun.busy hrun.faulted hut hnr
      (by rw [drawTurn_j] at huj; omega)
    exact ⟨v, (runSteps_succ hstep).trans hv, hrun.compressed hcomp⟩

/-- Settles O41: START sets the course, 64 turns of the engine and any of the host's follow it, and FINAL ends it. -/
theorem compressionSurvivesAnyInterleaving : Obligations.CompressionSurvivesAnyInterleaving := by
  intro s u program ts hb hf hw hu hnr hcount
  obtain rfl := Outcome.next.inj ((execStart_written hb ((allWritten_iff s).mpr hw)).symm.trans hu)
  exact runSteps_compressed (s := { respond 0 (setBusy (load s)) with program := program, turns := ts ++ [.engine] })
    ((InFlight.start s).congr rfl rfl rfl rfl rfl rfl) rfl hf rfl hnr (by simpa using hcount)

theorem runAlong_succ {order : Nat → Turn} {n : Nat} {s t : State} (h : runAlong order n s = .next t) :
    runAlong order (n + 1) s = act (order n) t := by simp [runAlong, h]

/-- Along an order without reset the counter counts the engine's turns, up to FINAL's. -/
theorem runAlong_running {order : Nat → Turn} (hnr : ∀ n, order n ≠ .reset) {s : State} (hb : s.status.busy = true)
    (hf : s.faulted = false) {n : Nat} (hn : s.j.toNat + n.count (order · = .engine) ≤ 64) :
    ∃ t, runAlong order n s = .next t ∧ StillRunning s t ∧ t.j.toNat = s.j.toNat + n.count (order · = .engine) := by
  induction n with
  | zero => exact ⟨s, rfl, ⟨rfl, ⟨rfl, rfl⟩, hb, hf⟩, by simp⟩
  | succ n ih =>
    have hcount : (n + 1).count (order · = .engine) = n.count (order · = .engine) + [order n].count .engine := by
      simp [Nat.count_succ, List.count_singleton]
    rw [hcount] at hn ⊢
    obtain ⟨t, ht, hrun, htj⟩ := ih (by omega)
    obtain ⟨u, hu, hrun', huj⟩ := act_running hrun.busy hrun.faulted (hnr n) (by omega)
    exact ⟨u, (runAlong_succ ht).trans hu, hrun.trans hrun', by omega⟩

/-- Settles O42: a fair order holds a further engine turn after those of the rounds to come, and that turn is FINAL's. -/
theorem fairRunsFinishTheCompression : Obligations.FairRunsFinishTheCompression := by
  intro order s hfair hnr hi hf hb
  have hinf : {n | order n = .engine}.Infinite :=
    Nat.frequently_atTop_iff_infinite.mp (Filter.frequently_atTop.mpr hfair)
  have hcount := Nat.count_nth_of_infinite hinf (64 - s.j.toNat)
  have hturn := Nat.nth_mem_of_infinite hinf (64 - s.j.toNat)
  generalize Nat.nth (order · = .engine) (64 - s.j.toNat) = n at hcount hturn
  have hj := hi.counter hb
  obtain ⟨t, ht, hrun, htj⟩ := runAlong_running hnr hb hf (n := n) (by omega)
  have hfinal : runAlong order (n + 1) s = .next (finalStep t) := by
    rw [runAlong_succ ht, hturn]
    exact engineTurn_final hrun.busy (by omega)
  exact ⟨n + 1, _, hfinal, rfl, rfl⟩

end Sys2Proof.Machine
end

section
/-! PROOFS. The rules of 44_commands.md: the words of each command, its effect and its frame, and what a command turned away leaves
alone. -/

namespace Sys2Proof

/-! The words of a command -/

/-- A mnemonic without an index is one word, whatever the data word (R53). -/
theorem decode_eq_some_iff_word {i : Instr} {op : BitVec 4} (hop : i.opcode = some op) (hidx : i.idxOperand = 0)
    (hwf : i.wellFormed = true) (hu : i.usesWdata = false) (cmd wdata : Word) :
    decode cmd wdata = some i ↔ cmd = commandWord op 0 := by
  simp [decode_eq_some_iff, hop, hidx, hwf, hu]

/-- No other word with the OP of such a mnemonic is legal (R56). -/
theorem decode_eq_none_of_ne_word {cmd : Word} {op : BitVec 4} (wdata : Word)
    (hop : op = 0x0 ∨ op = 0x1 ∨ op = 0x5 ∨ op = 0x6) (h : opField cmd = op) (hne : cmd ≠ commandWord op 0) :
    decode cmd wdata = none := by
  by_cases hrsv : rsvField cmd = 0
  · have hidx : idxField cmd ≠ 0 := fun hidx => hne (eq_commandWord_iff.mpr ⟨h, hrsv, hidx⟩)
    exact (decode_eq_none_iff cmd wdata).mpr (.inr (.inr (.inl ⟨hidx, h ▸ hop⟩)))
  · exact decode_of_rsv hrsv

/-- The index stands in the low bits of a command word (R52). -/
theorem or_setWidth_eq_commandWord (op idx : BitVec 4) : commandWord op 0 ||| idx.setWidth 32 = commandWord op idx := by
  revert op idx; decide

/-- WRH and RDH have no entry beyond H[7] (R56). -/
theorem decode_eq_none_of_idx_high {cmd : Word} (wdata : Word) (hop : opField cmd = 0x3 ∨ opField cmd = 0x4)
    (h : rsvField cmd ≠ 0 ∨ (idxField cmd).getLsbD 3 = true) : decode cmd wdata = none :=
  (decode_eq_none_iff cmd wdata).mpr (h.elim (.inr ∘ .inl) fun hidx => .inr (.inr (.inr ⟨hidx, hop⟩)))

theorem decode_commandWord_idx_high {op idx : BitVec 4} (wdata : Word) (hop : op = 0x3 ∨ op = 0x4) (h : 8 ≤ idx.toNat) :
    decode (commandWord op idx) wdata = none := by
  have hhigh : idx.getLsbD 3 = true := Bool.not_eq_false _ ▸ (idx_low idx).not.mpr (by omega)
  refine decode_eq_none_of_idx_high wdata ?_ (.inr ?_)
  · rwa [opField_commandWord]
  · rwa [idxField_commandWord]

end Sys2Proof

namespace Sys2Proof.Machine

open Host (Outcome)

/-! Commands turned away -/

/-- Settles O21: each of the five is rejected with BUSY_VIOLATION, which writes the response, ERR and CAUSE only. -/
theorem busyViolationsAreDropped : Obligations.BusyViolationsAreDropped := by
  intro s i hb h
  have hcmd : i.isCommand = true ∧ i.wellFormed = true ∧ i.legalWhileBusy = false := by
    obtain rfl | ⟨idx, word, rfl⟩ | ⟨idx, word, hidx, rfl⟩ | ⟨idx, hidx, rfl⟩ | rfl := h
    · exact ⟨rfl, rfl, rfl⟩
    · exact ⟨rfl, rfl, rfl⟩
    · exact ⟨rfl, decide_eq_true hidx, rfl⟩
    · exact ⟨rfl, decide_eq_true hidx, rfl⟩
    · exact ⟨rfl, rfl, rfl⟩
  obtain ⟨hi, hwf, hl⟩ := hcmd
  exact ⟨_, exec_of_busy hi hwf hl hb, rfl, rfl, rfl, hb, rfl, rfl, ⟨rfl, rfl⟩, ⟨rfl, rfl, rfl⟩, rfl, rfl, rfl, rfl, rfl⟩

/-- Settles O8: the port rejects the word with ILLEGAL_CMD, and the host receives the 0. -/
theorem stepRecordsAnIllegalWord : Obligations.StepRecordsAnIllegalWord := by
  intro s cmd wdata p ts ht hp hf hd
  exact ⟨_, step_command ht hp rfl hf (issueCommand_illegal hd), rfl, rfl, rfl, rfl, rfl, rfl, rfl, rfl, rfl, ⟨rfl, rfl⟩,
    ⟨rfl, rfl, rfl⟩, hf, rfl⟩

/-! The commands without an index -/

/-- Settles O13: NOP writes the response only. -/
theorem nopCompletes : Obligations.NopCompletes :=
  ⟨decode_eq_some_iff_word (op := 0x0) rfl rfl rfl rfl,
    fun _ wdata => decode_eq_none_of_ne_word wdata (.inl rfl),
    fun _ => ⟨_, rfl, rfl, rfl, rfl, ⟨rfl, rfl⟩, ⟨rfl, rfl, rfl⟩, rfl, rfl, rfl, rfl, rfl⟩⟩

/-- Settles O20: RDSTAT writes the response only. -/
theorem rdstatCompletes : Obligations.RdstatCompletes :=
  ⟨decode_eq_some_iff_word (op := 0x6) rfl rfl rfl rfl,
    fun _ wdata => decode_eq_none_of_ne_word wdata (.inr (.inr (.inr rfl))),
    fun _ => ⟨_, rfl, rfl, rfl, rfl, ⟨rfl, rfl⟩, ⟨rfl, rfl, rfl⟩, rfl, rfl, rfl, rfl, rfl⟩⟩

/-- Settles O14: an accepted INIT writes H, DONE and the response. -/
theorem initCompletes : Obligations.InitCompletes :=
  ⟨decode_eq_some_iff_word (op := 0x1) rfl rfl rfl rfl,
    fun _ wdata => decode_eq_none_of_ne_word wdata (.inr (.inl rfl)),
    fun _ hb => ⟨_, execInit_idle hb, rfl, fun _ => rfl, rfl, hb, rfl, rfl, ⟨rfl, rfl⟩, ⟨rfl, rfl, rfl⟩,
      rfl, rfl, rfl, rfl, rfl⟩,
    fun _ => exec_of_busy rfl rfl rfl⟩

theorem loadSchedule_get (W : Schedule) (M : Block) (k : Fin 64) :
    (loadSchedule W M)[k.val] = if h : k.val < 16 then M[k.val] else W[k.val] := by
  split
  case isTrue h => exact loadSchedule_get_low W M k h
  case isFalse h => exact loadSchedule_get_high W M k (Nat.le_of_not_lt h)

/-- Settles O18: an accepted START is LOAD with BUSY set and DONE cleared, or the model fault. -/
theorem startCompletes : Obligations.StartCompletes := by
  refine ⟨decode_eq_some_iff_word (op := 0x5) rfl rfl rfl rfl,
    fun _ wdata => decode_eq_none_of_ne_word wdata (.inr (.inr (.inl rfl))), fun s hb hw => ?_, fun s hb hw => ?_,
    fun _ => exec_of_busy rfl rfl rfl⟩
  · exact ⟨_, execStart_written hb ((allWritten_iff s).mpr hw), rfl, Working.ofChain_reg s.H, loadSchedule_get s.W s.M,
      rfl, rfl, rfl, rfl, rfl, rfl, ⟨rfl, rfl⟩, rfl, rfl, rfl, rfl, rfl⟩
  · have hunwritten : allWritten s = false := Bool.eq_false_iff.mpr (mt (allWritten_iff s).mp hw)
    exact ⟨_, execStart_unwritten hb hunwritten, rfl⟩

/-! The commands with an index -/

/-- A vector after one write, entry by entry. -/
theorem set_get {α : Type} {n : Nat} (v : Vector α n) {m : Nat} (hm : m < n) (x : α) (i : Fin n) :
    (v.set m x)[i.val] = if i.val = m then x else v[i.val] := by
  rw [Vector.getElem_set]
  simp only [eq_comm]

/-- Settles O15: an accepted WRM writes M[idx], Mvalid[idx] and the response. -/
theorem wrmCompletes : Obligations.WrmCompletes := by
  refine ⟨fun _ _ _ hrsv => decode_of_rsv hrsv, fun idx word => ?_⟩
  have hcmd : 0x20000000 ||| idx.setWidth 32 = commandWord 0x2 idx := or_setWidth_eq_commandWord 0x2 idx
  rw [hcmd]
  exact ⟨decode_of_operands (i := .wrm idx word) rfl rfl fun _ => rfl,
    fun s hb => ⟨_, execWrm_idle idx word hb, rfl, set_get s.M idx.isLt word, set_get s.Mvalid idx.isLt true,
      rfl, rfl, ⟨rfl, rfl, rfl⟩, rfl, rfl, rfl, rfl, rfl⟩,
    fun _ => exec_of_busy rfl rfl rfl⟩

/-- Settles O17: an accepted RDH writes the response only. -/
theorem rdhCompletes : Obligations.RdhCompletes := by
  refine ⟨fun _ wdata hop => decode_eq_none_of_idx_high wdata (.inr hop), fun idx wdata => ?_⟩
  have hcmd : 0x40000000 ||| idx.setWidth 32 = commandWord 0x4 idx := or_setWidth_eq_commandWord 0x4 idx
  rw [hcmd]
  refine ⟨fun h => ?_, decode_commandWord_idx_high wdata (.inr rfl)⟩
  have hwf : (Instr.rdh idx).wellFormed = true := decide_eq_true h
  exact ⟨decode_of_operands (i := .rdh idx) hwf rfl nofun,
    fun s hb => ⟨_, execRdh_idle h hb, rfl, rfl, rfl, ⟨rfl, rfl⟩, ⟨rfl, rfl, rfl⟩, rfl, rfl, rfl, rfl, rfl⟩,
    fun _ => exec_of_busy rfl hwf rfl⟩

/-- WRH with the number of an entry of H writes that entry (R101). -/
theorem execWrh_entry {s : State} (hb : s.status.busy = false) (i : Fin 8) (word : Word) :
    execWrh (BitVec.ofNat 4 i.val) word s = .next (respond 0 (clearDone (writeH i word s))) := by
  have hi : hIndex (BitVec.ofNat 4 i.val) = some i := by revert i; decide
  simp [execWrh, hi, hb]

/-- H with the words of `target` written to the entries listed, in turn. -/
def overwrite (target : Chain) (order : List (Fin 8)) (H : Chain) : Chain :=
  order.foldl (fun H i => H.set i.val target[i.val]) H

theorem overwrite_get (target : Chain) (order : List (Fin 8)) (H : Chain) (k : Fin 8) :
    (overwrite target order H)[k.val] = if k ∈ order then target[k.val] else H[k.val] := by
  induction order generalizing H with
  | nil => rfl
  | cons i rest ih =>
    rw [show overwrite target (i :: rest) H = overwrite target rest (H.set i.val target[i.val]) from rfl, ih, set_get]
    by_cases hki : k = i
    · simp [hki]
    · simp [hki, Fin.val_inj]

theorem overwrite_all {order : List (Fin 8)} (hall : ∀ i, i ∈ order) (target H : Chain) : overwrite target order H = target :=
  Vector.ext fun k hk => (overwrite_get target order H ⟨k, hk⟩).trans (if_pos (hall _))

/-- A sequence of WRH commands, at least one, has the effect of its writes to H, with DONE cleared and the response 0. -/
theorem foldl_wrh {f : Outcome State Fault Refusal → Fin 8 → Outcome State Fault Refusal} {target : Chain}
    (hf : ∀ u i, f (.next u) i = exec (.wrh (BitVec.ofNat 4 i.val) target[i.val]) u) (i : Fin 8) (rest : List (Fin 8))
    {s : State} (hb : s.status.busy = false) :
    (i :: rest).foldl f (.next s) =
      .next (respond 0 (clearDone { s with H := overwrite target (i :: rest) s.H })) := by
  have hone {u : State} (hu : u.status.busy = false) (k : Fin 8) :
      f (.next u) k = .next (respond 0 (clearDone (writeH k target[k.val] u))) :=
    (hf u k).trans (execWrh_entry hu k target[k.val])
  induction rest generalizing i s with
  | nil => exact hone hb i
  | cons k rest ih =>
    rw [List.foldl_cons, hone hb i]
    exact ih k (s := respond 0 (clearDone (writeH i target[i.val] s))) hb

/-- Settles O16: an accepted WRH writes H[idx], DONE and the response; writes to every entry leave no word of the old H. -/
theorem wrhCompletes : Obligations.WrhCompletes := by
  refine ⟨fun _ wdata hop => decode_eq_none_of_idx_high wdata (.inl hop), fun idx word => ?_, fun s target order hb hall => ?_⟩
  · have hcmd : 0x30000000 ||| idx.setWidth 32 = commandWord 0x3 idx := or_setWidth_eq_commandWord 0x3 idx
    rw [hcmd]
    refine ⟨fun h => ?_, decode_commandWord_idx_high word (.inl rfl)⟩
    have hwf : (Instr.wrh idx word).wellFormed = true := decide_eq_true h
    exact ⟨decode_of_operands (i := .wrh idx word) hwf rfl fun _ => rfl,
      fun s hb => ⟨_, execWrh_idle word h hb, rfl, set_get s.H h word, rfl, hb, rfl, rfl, ⟨rfl, rfl⟩, ⟨rfl, rfl, rfl⟩,
        rfl, rfl, rfl, rfl, rfl⟩,
      fun _ => exec_of_busy rfl hwf rfl⟩
  · cases order with
    | nil => exact absurd (hall 0) List.not_mem_nil
    | cons i rest =>
      exact ⟨_, foldl_wrh (fun _ _ => rfl) i rest hb, overwrite_all hall target s.H, hb, rfl,
        ⟨rfl, rfl⟩, ⟨rfl, rfl, rfl⟩, rfl, rfl, rfl, rfl, rfl⟩

end Sys2Proof.Machine
end

section
/-! PROOFS. The rules of 45_host_protocol.md: the length of a padded message and its length field, the bytes of a word, and the
streaming calls against the digest of the concatenation. -/

namespace Sys2Proof.Machine

/-! The streaming calls -/

/-- The stream has taken in `msg` and given the engine `blocks`: the buffer is what follows the whole blocks of `msg` (R108). -/
structure Stream.Absorbed (st : Stream) (blocks : List Block) (msg : List Byte) : Prop where
  split : ∃ whole n, whole ++ st.buffer = msg ∧ whole.length = 64 * n ∧ parseBlocks whole = blocks
  buffer_lt : st.buffer.length < 64
  length : st.length.toNat = msg.length

theorem Stream.absorbed_new : Stream.new.Absorbed [] [] := ⟨⟨[], 0, rfl, rfl, rfl⟩, Nat.zero_lt_succ 63, rfl⟩

/-- An update within the domain takes in its bytes: the whole blocks that buffer and bytes make go to the engine (R115). -/
theorem Stream.Absorbed.update {st : Stream} {blocks : List Block} {msg : List Byte} (h : st.Absorbed blocks msg)
    (bytes : List Byte) (hlen : (msg ++ bytes).length < 2 ^ 61) :
    ∃ st' new, st.update bytes = some (st', new) ∧ st'.Absorbed (blocks ++ new) (msg ++ bytes) := by
  obtain ⟨⟨whole, n, rfl, hn, rfl⟩, -, hlength⟩ := h
  rw [List.length_append] at hlen
  have hdomain : st.length.toNat + bytes.length ≤ maxMessageBytes := by unfold maxMessageBytes; omega
  refine ⟨_, _, if_pos hdomain, ?_, ?_, ?_⟩
  · refine ⟨_, n + (st.buffer ++ bytes).length / 64, ?_, ?_, parseBlocks_append whole _ n hn⟩
    · rw [List.append_assoc, List.take_append_drop, List.append_assoc]
    · rw [List.length_append, List.length_take_of_le (Nat.mul_div_le _ _), hn, Nat.mul_add]
  · rw [List.length_drop]
    omega
  · rw [BitVec.toNat_add, BitVec.toNat_ofNat, List.length_append]
    omega

/-- A sequence of updates takes in the concatenation of their bytes. -/
theorem Stream.Absorbed.updates {st : Stream} {blocks : List Block} {msg : List Byte} (h : st.Absorbed blocks msg)
    (chunks : List (List Byte)) (hlen : (msg ++ chunks.flatten).length < 2 ^ 61) :
    ∃ st' new, st.updates chunks = some (st', new) ∧ st'.Absorbed (blocks ++ new) (msg ++ chunks.flatten) := by
  induction chunks generalizing st blocks msg with
  | nil => exact ⟨st, [], rfl, by simpa using h⟩
  | cons bytes rest ih =>
    rw [List.flatten_cons, ← List.append_assoc] at hlen ⊢
    obtain ⟨st', new, hupdate, h'⟩ := h.update bytes (by simp only [List.length_append] at hlen ⊢; omega)
    obtain ⟨st'', new', hupdates, h''⟩ := ih h' hlen
    exact ⟨st'', new ++ new', by simp only [Stream.updates, hupdate, hupdates], List.append_assoc .. ▸ h''⟩

/-- The last blocks complete the blocks of the padded message (R115). -/
theorem Stream.Absorbed.finalize {st : Stream} {blocks : List Block} {msg : List Byte} (h : st.Absorbed blocks msg) :
    blocks ++ st.finalize = parseBlocks (msg ++ padding msg.length) := by
  obtain ⟨⟨whole, n, hmsg, hn, rfl⟩, -, hlength⟩ := h
  rw [Stream.finalize, hlength, ← parseBlocks_append whole _ n hn, ← List.append_assoc, hmsg]

/-- A digest is 32 bytes (R116). -/
theorem emit_length (H : Chain) : (emit H).length = 32 := by
  simp [emit, be32, List.length_flatMap]

/-- Settles O55: the updates take in the concatenation, from whose buffered rest `finalize` makes the last blocks. -/
theorem streamingEqualsOneShot : Obligations.StreamingEqualsOneShot := by
  intro chunks hlen
  obtain ⟨st, blocks, hupdates, h⟩ := Stream.absorbed_new.updates chunks hlen
  rw [List.nil_append, List.nil_append] at h
  have hpad := pad_eq_some hlen
  exact ⟨st, blocks, _, hupdates, hpad, h.finalize, h.buffer_lt, h.length, by rw [sha256, hpad, h.finalize, Option.map_some],
    emit_length _⟩

/-! Padding -/

/-- Settles O52, from the range of the padding's length. -/
theorem paddedLength : Obligations.PaddedLength := by
  intro msg hlen
  obtain ⟨hlow, hhigh, hmod⟩ := padCount_range msg.length
  refine ⟨_, pad_eq_some hlen, ?_⟩
  rw [List.length_append, padding_length]
  exact ⟨hmod, by omega, by omega, by omega, List.take_left⟩

theorem be64_length (v : BitVec 64) : (be64 v).length = 8 := rfl

/-- The bytes of BE64, the most significant first, are the value (R109). -/
theorem foldl_be64 (v : BitVec 64) : (be64 v).foldl (fun n b => 256 * n + b.toNat) 0 = v.toNat := by
  have := v.isLt
  simp only [be64, List.range, List.range.loop, List.map, List.foldl, BitVec.extractLsb'_toNat, Nat.shiftRight_eq_div_pow]
  omega

/-- The padded messages are those of the messages in the domain (R109, R111). -/
theorem pad_eq_some_iff {msg p : List Byte} : pad msg = some p ↔ msg.length < 2 ^ 61 ∧ msg ++ padding msg.length = p := by
  by_cases hlen : msg.length < 2 ^ 61
  · rw [pad_eq_some hlen, Option.some_inj, and_iff_right hlen]
  · rw [pad_eq_none (Nat.le_of_not_lt hlen)]
    exact ⟨nofun, fun ⟨h, _⟩ => absurd h hlen⟩

/-- The last eight bytes of a padded message are its length field (R109). -/
theorem drop_padding (msg : List Byte) :
    (msg ++ padding msg.length).drop ((msg ++ padding msg.length).length - 8) = be64 (BitVec.ofNat 64 (8 * msg.length)) := by
  rw [padding, ← List.append_assoc]
  exact List.drop_left' (by rw [List.length_append (bs := be64 _), be64_length, Nat.add_sub_cancel])

/-- Settles O53: BE64 of 8 times the length, which fits in 64 bits below 2^61 bytes. -/
theorem lengthFieldIsExact : Obligations.LengthFieldIsExact := by
  refine ⟨fun msg p hp => ?_, fun _ => pad_eq_none⟩
  obtain ⟨hlen, rfl⟩ := pad_eq_some_iff.mp hp
  rw [drop_padding, foldl_be64, BitVec.toNat_ofNat, Nat.mod_eq_of_lt (by omega)]
  exact ⟨rfl, rfl⟩

/-! The bytes of a word -/

/-- The parsed word is its bytes put together, the first the most significant: the shifted bytes do not overlap (R112). -/
theorem be32Word_eq_append (b0 b1 b2 b3 : Byte) : be32Word b0 b1 b2 b3 = b0 ++ b1 ++ b2 ++ b3 := by
  have happend := BitVec.setWidth_append_append_append_eq_shiftLeft_setWidth_or (b := b0) (b' := b1) (b'' := b2) (b''' := b3)
    (w'''' := 32)
  rw [BitVec.setWidth_eq] at happend
  exact happend.symm

/-- Settles O54: the bytes of BE32 are adjacent slices of the word, and PARSE puts them together again. -/
theorem parseUndoesEmission : Obligations.ParseUndoesEmission := by
  intro w
  refine ⟨_, _, _, _, rfl, ?_, ?_, BitVec.extractLsb'_toNat ..⟩
  · rw [be32Word_eq_append, BitVec.extractLsb'_append_extractLsb'_eq_extractLsb' (show 24 = 16 + 8 from rfl),
      BitVec.extractLsb'_append_extractLsb'_eq_extractLsb' (show 16 = 8 + 8 from rfl),
      BitVec.extractLsb'_append_extractLsb'_eq_extractLsb' (show 8 = 0 + 8 from rfl)]
    exact BitVec.extractLsb'_eq_self
  · rw [BitVec.extractLsb'_toNat, Nat.shiftRight_eq_div_pow]
    omega

end Sys2Proof.Machine
end

section
/-! PROOFS. The rules of 60_exceptions.md: what raises an error, the model fault, the frame of an idle machine, and the order of
reset and a command at one edge. -/

namespace Sys2Proof.Machine

/-! What raises an error -/

/-- A host turn with an ILLEGAL word records ILLEGAL_CMD, whatever BUSY is (R121). -/
theorem step_status_of_illegal {s t : State} (h : step s = .next t) (ht : nextTurn s = .host) (hi : nextIsIllegal s) :
    t.status = s.status.error .illegalCmd := by
  obtain ⟨hp, -⟩ | ⟨rest, hp, -⟩ | ⟨_, _, _, _, u, -, -, -, -, rfl, hd⟩ := step_host_cases h ht
  · simp [nextIsIllegal, nextWords, hp] at hi
  · simp [nextIsIllegal, nextWords, hp, HostItem.words] at hi
  · obtain ⟨-, -, -, rfl⟩ | ⟨_, -, -, hlegal, -⟩ := hd
    · rfl
    · exact absurd hi hlegal

/-- ERR is set only at the host's turn, by an ILLEGAL word or by a command that is not legal while BUSY = 1 (R118, R120). -/
theorem step_err_set {s t : State} (h : step s = .next t) (hs : s.status.err = false) (he : t.status.err = true) :
    nextTurn s = .host ∧
    (nextIsIllegal s ∨
      (s.status.busy = true ∧ (∃ i, nextCommand s = some i ∧ i.legalWhileBusy = false) ∧ t.status.cause = .busyViolation)) := by
  cases step_effect h with
  | illegal _ ht hi => exact ⟨ht, .inl hi⟩
  | @busy e ht i hc hl hb => exact ⟨ht, .inr ⟨hb, ⟨i, hc, hl⟩, by simp [e.status, hs]⟩⟩
  | _ e => simp [e.status, hs] at he

/-- Settles O33: only the two kinds of rejected commands touch ERR, and each sets it with its own cause. -/
theorem errorsComeFromHostMisuseOnly : Obligations.ErrorsComeFromHostMisuseOnly := by
  intro s t h hs
  refine ⟨⟨fun he => ?_, ?_⟩, fun he hi => ?_, fun he hlegal => ?_⟩
  · obtain ⟨ht, hi | ⟨hb, hc, -⟩⟩ := step_err_set h hs he
    · exact ⟨ht, .inl hi⟩
    · exact ⟨ht, .inr ⟨hb, hc⟩⟩
  · rintro ⟨ht, hi | ⟨hb, i, hc, hl⟩⟩
    · simp [step_status_of_illegal h ht hi]
    · obtain ⟨_, _, u, rfl, -, hr⟩ := step_nextCommand h ht hc
      exact (hr.rejected_of_busy hb hl).1
  · obtain ⟨ht, -⟩ := step_err_set h hs he
    simp [step_status_of_illegal h ht hi, hs]
  · obtain ⟨-, hi | ⟨-, -, hcause⟩⟩ := step_err_set h hs he
    · exact absurd hi hlegal
    · exact hcause

/-- Settles O19: the bit at `i` is one that START's test finds unset. -/
theorem startOnUnwrittenWordsFaultsTheModel : Obligations.StartOnUnwrittenWordsFaultsTheModel := by
  intro s i hb hi
  have hunwritten : allWritten s = false :=
    Bool.eq_false_iff.mpr fun hw => Bool.eq_false_iff.mp hi ((allWritten_iff s).mp hw i)
  exact execStart_unwritten hb hunwritten

/-! An idle machine, and reset -/

/-- Settles O12: a host with nothing to issue and an idle engine only draw their turn. -/
theorem idleStateSurvives : Obligations.IdleStateSurvives := by
  intro s hb hp hnr
  cases ht : nextTurn s with
  | host => exact (step_host ht).trans (hostTurn_nil hp)
  | engine => exact (step_engine ht).trans (engineTurn_idle hb)
  | reset => exact absurd ht hnr

theorem pinEdge_reset {p : PinsIn} (advance : Bool) (s : State) (hrst : p.rst = true) :
    pinEdge p advance s = .next (resetEngine s) := if_pos hrst

/-- Settles O59: the edge is the reset, which reads neither the command pins nor `advance`. -/
theorem resetWinsAtAnEdge : Obligations.ResetWinsAtAnEdge := fun s p advance hrst =>
  ⟨resetEngine s, pinEdge_reset advance s hrst, rfl, show Status.zero.word = 0 by decide,
    fun i => Vector.getElem_replicate i.isLt, rfl, rfl, engineStepEnabled_idle rfl, fun _ _ _ => pinEdge_reset advance s hrst⟩

end Sys2Proof.Machine
end

section
/-! PROOFS. The rules of 70_reset_and_hazards.md: the reset turn and the reset state, a host that keeps the protocol, and the
nominal timing of a compression at the pins. -/

namespace Sys2Proof.Machine

open Host (Outcome)

/-! Reset -/

/-- Settles O11: the turn is the reset of the engine, which leaves the agents' inputs. -/
theorem resetTurnEffect : Obligations.ResetTurnEffect := fun s ts ht =>
  ⟨resetEngine (drawTurn s), step_reset (nextTurn_cons ht), fun _ => rfl, show Status.zero.word = 0 by decide,
    rfl, rfl, rfl, rfl, fun i => Vector.getElem_replicate i.isLt, rfl, rfl, rfl, rfl, congrArg List.tail ht⟩

/-- Settles O37: the reset state field by field; an idle engine has no step. -/
theorem stateAfterReset : Obligations.StateAfterReset :=
  ⟨fun _ => rfl, rfl, rfl, show Status.zero.word = 0 by decide, rfl, fun i => Vector.getElem_replicate i.isLt, rfl, rfl,
    engineStepEnabled_idle rfl⟩

theorem Inv.reset : Inv State.reset where
  counter := nofun
  exclusive := nofun
  cause := ⟨fun _ => rfl, fun _ => rfl⟩
  written := nofun

/-- Settles O38: no compression runs at reset. -/
theorem invariantsHoldAtReset : Obligations.InvariantsHoldAtReset := ⟨Inv.reset, .of_idle rfl⟩

/-! A host that keeps the protocol -/

/-- An unfaulted machine carries out every turn of the host. -/
theorem hostTurn_next {s : State} (hf : s.faulted = false) : ∃ t, hostTurn s = .next t := by
  cases hp : s.program with
  | nil => exact ⟨s, hostTurn_nil hp⟩
  | cons item rest =>
    cases hw : item.words with
    | none =>
      obtain rfl := HostItem.words_eq_none.mp hw
      exact ⟨_, hostTurn_mark hp⟩
    | some w =>
      obtain ⟨u, hu, -⟩ := issueCommand_next w.1 w.2 (clearRsp (dropItem rest s))
      exact ⟨_, hostTurn_cons hp hw hf hu⟩

/-- No step of an unfaulted machine stops. -/
theorem step_next {s : State} (hi : Inv s) (hf : s.faulted = false) : ∃ t, step s = .next t := by
  cases ht : nextTurn s with
  | host => simpa only [step_host ht] using hostTurn_next (s := drawTurn s) hf
  | engine =>
    obtain ⟨t, h, -⟩ := engineTurn_of_inv (s := drawTurn s) (hi.congr rfl rfl rfl)
    exact ⟨t, (step_engine ht).trans h⟩
  | reset => exact ⟨_, step_reset ht⟩

theorem hostEvent_words {s : State} (t : State) {cmd wdata : Word} (ht : nextTurn s = .host)
    (hw : nextWords s = some (cmd, wdata)) : hostEvent s t = some (.issued cmd wdata (t.rsp.getD 0)) := by
  cases hp : s.program with
  | nil => simp [nextWords, hp] at hw
  | cons item rest => exact hostEvent_command ht hp ((nextWords_cons hp).symm.trans hw)

theorem nextCommand_eq_some {s : State} {i : Instr} (h : nextCommand s = some i) :
    ∃ cmd wdata, nextWords s = some (cmd, wdata) ∧ decode cmd wdata = some i := by
  cases hw : nextWords s with
  | none => simp [nextCommand, hw] at h
  | some w => exact ⟨w.1, w.2, rfl, (nextCommand_words hw).symm.trans h⟩

section Kept

variable {s t : State} {p : Protocol}

/-- The word a protocol-keeping host issues breaks no clause. -/
theorem wordBreaks_eq_false_of_follows (hk : p.follows (hostEvent s t).toList) {cmd wdata : Word} (ht : nextTurn s = .host)
    (hw : nextWords s = some (cmd, wdata)) (c : Clause) : p.wordBreaks c cmd wdata = false := by
  rw [hostEvent_words t ht hw] at hk
  exact ((p.follows_cons _ _).mp hk).1 c

/-- P4 excludes the illegal words, and P1 the commands turned away while busy. -/
theorem step_err_of_follows (h : step s = .next t) (ha : p.Agrees s) (he : s.status.err = false)
    (hk : p.follows (hostEvent s t).toList) : t.status.err = false := by
  by_contra herr
  obtain ⟨ht, ⟨cmd, wdata, hw, hd⟩ | ⟨hb, ⟨i, hc, hl⟩, -⟩⟩ := step_err_set h he (Bool.of_not_eq_false herr)
  · have hp4 := wordBreaks_eq_false_of_follows hk ht hw .p4
    simp [Protocol.wordBreaks, hd] at hp4
  · obtain ⟨cmd, wdata, hw, hd⟩ := nextCommand_eq_some hc
    have hidle := ha.idle_of_p1 (wordBreaks_eq_false_of_follows hk ht hw .p1) (by simpa [hd] using hl)
    simp [hb] at hidle

/-- P2 excludes the START that faults the model. -/
theorem step_faulted_of_follows (h : step s = .next t) (ha : p.Agrees s) (hf : s.faulted = false)
    (hk : p.follows (hostEvent s t).toList) : t.faulted = false := by
  obtain hsame | ⟨-, ht, hc, -, hunwritten⟩ := step_faulted h
  · exact hsame.trans hf
  · obtain ⟨cmd, wdata, hw, hd⟩ := nextCommand_eq_some hc
    have hp2 := wordBreaks_eq_false_of_follows hk ht hw .p2
    have hall : p.written.toList.all id = false := ha.1 ▸ hunwritten
    simp [Protocol.wordBreaks, hd, hall] at hp2

/-- The record stays right of the state, over a reset too. -/
theorem step_agrees_of_follows (h : step s = .next t) (hi : Inv s) (ha : p.Agrees s)
    (hk : p.follows (hostEvent s t).toList) : (p.after (hostEvent s t).toList).Agrees t := by
  by_cases ht : nextTurn s = .reset
  · rw [hostEvent_reset ht]
    obtain rfl := Outcome.next.inj ((step_reset ht).symm.trans h)
    exact ⟨rfl, fun _ => rfl⟩
  · exact (step_reference h hi ha ht (hk .p1)).1

end Kept

/-- A run along which the host keeps the protocol never stops, and ends without an error. -/
theorem runSteps_of_follows {s : State} {p : Protocol} {n : Nat} (hi : Inv s) (ha : p.Agrees s)
    (he : s.status.err = false) (hf : s.faulted = false) (hk : p.follows (hostEvents n s)) :
    ∃ t, runSteps n s = .next t ∧ t.status.err = false ∧ t.faulted = false ∧ (p.after (hostEvents n s)).Agrees t := by
  induction n generalizing s p with
  | zero => exact ⟨s, rfl, he, hf, ha⟩
  | succ n ih =>
    obtain ⟨t, h⟩ := step_next hi hf
    rw [hostEvents_succ h] at hk ⊢
    obtain ⟨hk, hks⟩ := (p.follows_append _ _).mp hk
    rw [runSteps_succ h, p.after_append]
    exact ih (everyStepKeepsInv s t hi h) (step_agrees_of_follows h hi ha hk) (step_err_of_follows h ha he hk)
      (step_faulted_of_follows h ha hf hk) hks

/-! A program that keeps the protocol -/

/-- `p` binds a host as `q` does, but for a poll that `p` may not owe. -/
structure Protocol.OwesNoMore (p q : Protocol) : Prop where
  waiting : p.waiting = true → q.waiting = true
  written : p.written = q.written
  chained : p.chained = q.chained

namespace Protocol.OwesNoMore

variable {p q : Protocol}

theorem wordBreaks (h : p.OwesNoMore q) {c : Clause} {cmd wdata : Word} (hq : q.wordBreaks c cmd wdata = false) :
    p.wordBreaks c cmd wdata = false := by
  cases c with
  | p1 =>
    cases hw : p.waiting with
    | false => simp [Protocol.wordBreaks, hw]
    | true => simpa [Protocol.wordBreaks, hw, h.waiting hw] using hq
  | p2 => simpa [Protocol.wordBreaks, h.written] using hq
  | p3 => simpa [Protocol.wordBreaks, h.chained] using hq
  | p4 => exact hq

/-- A response of 1, BUSY, ends no poll, so no other response leaves more to owe. -/
theorem afterCommand (h : p.OwesNoMore q) (i : Instr) (rdata : Word) :
    (p.afterCommand i rdata).OwesNoMore (q.afterCommand i 1) := by
  obtain ⟨hwaiting, hwritten, hchained⟩ := h
  cases i with
  | nop | rdh | round | final => exact ⟨hwaiting, hwritten, hchained⟩
  | init => exact ⟨hwaiting, hwritten, rfl⟩
  | wrm idx word => exact ⟨hwaiting, by simp [Protocol.afterCommand, hwritten], hchained⟩
  | wrh idx word =>
    cases hk : hIndex idx with
    | none => simpa only [Protocol.afterCommand, hk] using ⟨hwaiting, hwritten, hchained⟩
    | some k =>
      simp only [Protocol.afterCommand, hk]
      exact ⟨hwaiting, hwritten, by simp [hchained]⟩
  | start =>
    refine ⟨fun hw => ?_, hwritten, hchained⟩
    simp only [Protocol.afterCommand, Bool.or_eq_true, hwritten] at hw ⊢
    exact hw.imp_left hwaiting
  | rdstat =>
    refine ⟨fun hw => ?_, hwritten, hchained⟩
    simp only [Protocol.afterCommand, Bool.and_eq_true] at hw ⊢
    exact ⟨hwaiting hw.1, by decide⟩

theorem next (h : p.OwesNoMore q) (cmd wdata rdata : Word) :
    (p.next (.issued cmd wdata rdata)).OwesNoMore (q.next (.issued cmd wdata 1)) := by
  cases hd : decode cmd wdata with
  | none => simpa only [Protocol.next_illegal _ hd] using h
  | some i => simpa only [Protocol.next_legal _ hd] using h.afterCommand i rdata

end Protocol.OwesNoMore

/-- What the check of a program keeps true of a run: it accepts what is left of the program, from a record that owes no less. -/
def Protocol.Admits (p : Protocol) (items : List HostItem) : Prop :=
  ∃ q : Protocol, p.OwesNoMore q ∧ q.acceptsProgram items = true

namespace Protocol.Admits

variable {p : Protocol} {rest : List HostItem}

theorem of_acceptsProgram {items : List HostItem} (h : p.acceptsProgram items = true) : p.Admits items :=
  ⟨p, ⟨id, rfl, rfl⟩, h⟩

theorem nextMessage (h : p.Admits (.nextMessage :: rest)) : (p.next .nextMessage).Admits rest := by
  obtain ⟨q, hpq, hq⟩ := h
  exact ⟨q.next .nextMessage, ⟨hpq.waiting, hpq.written, rfl⟩, hq⟩

theorem command {cmd wdata : Word} (h : p.Admits (.command cmd wdata :: rest)) :
    (∀ c, p.wordBreaks c cmd wdata = false) ∧ ∀ rdata, (p.next (.issued cmd wdata rdata)).Admits rest := by
  obtain ⟨q, hpq, hq⟩ := h
  simp only [Protocol.acceptsProgram, Bool.and_eq_true, List.all_eq_true, Bool.not_eq_true'] at hq
  obtain ⟨hbreaks, hrest⟩ := hq
  exact ⟨fun c => hpq.wordBreaks (hbreaks c (by cases c <;> simp)), fun rdata => ⟨_, hpq.next cmd wdata rdata, hrest⟩⟩

/-- RDSTAT breaks no clause; read as BUSY = 1 it leaves the `wait` to be repeated, else it ends the poll (R62). -/
theorem wait {cmd wdata : Word} (h : p.Admits (.wait :: rest)) (hw : HostItem.wait.words = some (cmd, wdata)) :
    (∀ c, p.wordBreaks c cmd wdata = false) ∧
      ∀ rsp, (p.next (.issued cmd wdata (rsp.getD 0))).Admits
        (if HostItem.wait.repeats rsp then .wait :: rest else rest) := by
  obtain ⟨rfl, rfl⟩ : 0x60000000 = cmd ∧ 0 = wdata := by simpa [HostItem.words] using hw
  have hd : decode 0x60000000 0 = some .rdstat := by decide
  refine ⟨(p.wordBreaks_none _ _).mpr ⟨_, hd, fun _ => rfl, nofun⟩, fun rsp => ?_⟩
  have hrepeats : HostItem.wait.repeats rsp = (rsp.getD 0).getLsbD 0 := by cases rsp <;> rfl
  obtain ⟨q, hpq, hq⟩ := h
  rw [p.next_legal hd, hrepeats, Protocol.afterCommand]
  generalize (rsp.getD 0).getLsbD 0 = busy
  cases busy with
  | false => exact ⟨{ q with waiting := false }, ⟨by simp, hpq.written, hpq.chained⟩, hq⟩
  | true => exact ⟨q, ⟨by simpa using hpq.waiting, hpq.written, hpq.chained⟩, hq⟩

/-- The item a host issues breaks no clause, whatever its response, and the check goes on to accept what is left. -/
theorem issued {item : HostItem} {cmd wdata : Word} (h : p.Admits (item :: rest)) (hw : item.words = some (cmd, wdata)) :
    (∀ c, p.wordBreaks c cmd wdata = false) ∧
      ∀ rsp, (p.next (.issued cmd wdata (rsp.getD 0))).Admits (if item.repeats rsp then item :: rest else rest) := by
  cases item with
  | command cmd' wdata' =>
    obtain ⟨rfl, rfl⟩ : cmd' = cmd ∧ wdata' = wdata := by simpa [HostItem.words] using hw
    exact ⟨h.command.1, fun rsp => h.command.2 (rsp.getD 0)⟩
  | wait => exact h.wait hw
  | nextMessage => cases hw

end Protocol.Admits

/-- A step that is no reset keeps the protocol, and leaves a program that keeps it. -/
theorem step_admits {s t : State} {p : Protocol} (h : step s = .next t) (hnr : nextTurn s ≠ .reset)
    (ha : p.Admits s.program) :
    p.follows (hostEvent s t).toList ∧ (p.after (hostEvent s t).toList).Admits t.program := by
  cases step_cases h with
  | hostIdle ht hp =>
    rw [hostEvent_idle ht hp]
    exact ⟨p.follows_nil, ha⟩
  | hostMark ht hp =>
    rw [hostEvent_mark ht hp]
    exact ⟨(p.follows_cons _ _).mpr ⟨fun _ => rfl, Protocol.follows_nil _⟩, (hp ▸ ha).nextMessage⟩
  | @hostCommand item cmd wdata rest u ht hp hw _ hu =>
    rw [hostEvent_command ht hp hw, receive_program, (issueCommand_inputs hu).1]
    obtain ⟨hbreaks, hrest⟩ := (hp ▸ ha).issued hw
    exact ⟨(p.follows_cons _ _).mpr ⟨hbreaks, Protocol.follows_nil _⟩, hrest u.rsp⟩
  | engineIdle ht | engineRound ht | engineFinal ht =>
    rw [hostEvent_engine ht]
    exact ⟨p.follows_nil, ha⟩
  | reset ht => exact absurd ht hnr

theorem follows_of_admits {s : State} {p : Protocol} {n : Nat} (hnr : Turn.reset ∉ s.turns) (ha : p.Admits s.program) :
    p.follows (hostEvents n s) := by
  induction n generalizing s p with
  | zero => exact p.follows_nil
  | succ n ih =>
    cases h : step s with
    | fault | refused => simp [hostEvents, h]
    | next t =>
      obtain ⟨hk, hat⟩ := step_admits h (nextTurn_ne_reset hnr) ha
      rw [hostEvents_succ h]
      exact (p.follows_append _ _).mpr ⟨hk, ih (fun hr => hnr (List.mem_of_mem_tail (step_turns h ▸ hr))) hat⟩

/-- Settles O44: each step of a host that keeps the protocol finds what it needs, and each step of an accepted program keeps
the protocol. -/
theorem protocolHostsNeverSeeAnError : Obligations.ProtocolHostsNeverSeeAnError :=
  fun _ _ _ hi ha he hf => ⟨runSteps_of_follows hi ha he hf, fun hnr hacc => follows_of_admits hnr (.of_acceptsProgram hacc)⟩

/-! The nominal timing at the pins -/

/-- Whatever is presented at an edge of a running compression, the port leaves M and the model unfaulted. -/
theorem portEdge_running (p : PinsIn) {s : State} (hb : s.status.busy = true) (hf : s.faulted = false) :
    ∃ c, portEdge p s = .next c ∧ SameMessage s c ∧ c.faulted = false := by
  cases hv : p.cmdValid with
  | false => exact ⟨clearRsp s, by simp [portEdge, hv], ⟨rfl, rfl⟩, hf⟩
  | true =>
    obtain ⟨v, err, cause, hcmd⟩ := issueCommand_of_busy p.cmd p.wdata hb
    refine ⟨portWrites v err cause (clearRsp s), ?_, ⟨rfl, rfl⟩, hf⟩
    simp only [portEdge, hv, if_true, acceptCommand_clear hf]
    exact hcmd _ rfl

/-- An edge before FINAL's does the next round of the compression (R142). -/
theorem pinEdge_round {p : PinsIn} {s : State} (hrst : p.rst = false) (hc : InFlight s) (hb : s.status.busy = true)
    (hf : s.faulted = false) (hj : s.j.toNat < 64) :
    ∃ t, pinEdge p true s = .next t ∧ InFlight t ∧ StillRunning s t ∧ t.j.toNat = s.j.toNat + 1 := by
  obtain ⟨c, hport, hmsg, hcf⟩ := portEdge_running p hb hf
  refine ⟨_, pinEdge_shared hrst hb hport (engineTurn_round hb hj), ?_, ⟨rfl, hmsg, hb, hcf⟩, counter_succ hj⟩
  exact (hc.roundStep hb hj).congr rfl hmsg.1 rfl rfl rfl rfl

theorem pinEdge_final {p : PinsIn} {s : State} (hrst : p.rst = false) (hc : InFlight s) (hb : s.status.busy = true)
    (hf : s.faulted = false) (hj : s.j.toNat = 64) : ∃ t, pinEdge p true s = .next t ∧ Compressed s t := by
  obtain ⟨c, hport, hmsg, hcf⟩ := portEdge_running p hb hf
  obtain ⟨hH, hidle, hdone, -, -⟩ := finalStep_compressed hc hb hf hj
  exact ⟨_, pinEdge_shared hrst hb hport (engineTurn_final hb hj), hH, hidle, hdone, hmsg, hcf⟩

theorem nominalEdges_cons {p : PinsIn} {s t : State} (h : pinEdge p true s = .next t) (ps : List PinsIn) :
    nominalEdges (p :: ps) s = nominalEdges ps t := by simp [nominalEdges, h]

/-- Before FINAL's edge the compression runs on, and the counter counts the edges. -/
theorem nominalEdges_running {s : State} {ps : List PinsIn} (hc : InFlight s) (hb : s.status.busy = true)
    (hf : s.faulted = false) (hrst : ∀ p ∈ ps, p.rst = false) (hj : s.j.toNat + ps.length ≤ 64) :
    ∃ t, (∀ qs, nominalEdges (ps ++ qs) s = nominalEdges qs t) ∧ InFlight t ∧ StillRunning s t ∧
      t.j.toNat = s.j.toNat + ps.length := by
  induction ps generalizing s with
  | nil => exact ⟨s, fun _ => rfl, hc, ⟨rfl, ⟨rfl, rfl⟩, hb, hf⟩, rfl⟩
  | cons p ps ih =>
    obtain ⟨hp, hps⟩ := List.forall_mem_cons.mp hrst
    rw [List.length_cons] at hj ⊢
    obtain ⟨t, ht, hct, hrun, htj⟩ := pinEdge_round hp hc hb hf (by omega)
    obtain ⟨u, hu, hcu, hrun', huj⟩ := ih hct hrun.busy hrun.faulted hps (by omega)
    exact ⟨u, fun qs => (nominalEdges_cons ht (ps ++ qs)).trans (hu qs), hcu, hrun.trans hrun', by omega⟩

/-- The edges of the rounds to come, and FINAL's, leave the compression. -/
theorem nominalEdges_compressed {s : State} {ps : List PinsIn} {last : PinsIn} (hc : InFlight s)
    (hb : s.status.busy = true) (hf : s.faulted = false) (hrst : ∀ p ∈ ps, p.rst = false) (hlast : last.rst = false)
    (hj : s.j.toNat + ps.length = 64) : ∃ t, nominalEdges (ps ++ [last]) s = .next t ∧ Compressed s t := by
  obtain ⟨t, ht, hct, hrun, htj⟩ := nominalEdges_running hc hb hf hrst hj.le
  obtain ⟨u, hu, hcomp⟩ := pinEdge_final hlast hct hrun.busy hrun.faulted (htj.trans hj)
  exact ⟨u, (ht [last]).trans (nominalEdges_cons hu []), hrun.compressed hcomp⟩

/-- A START at an edge of an idle engine with its M words written is accepted, and does no round yet. -/
theorem pinEdge_start {p : PinsIn} {s : State} (hb : s.status.busy = false) (hf : s.faulted = false)
    (hw : allWritten s = true) (hrst : p.rst = false) (hv : p.cmdValid = true) (hcmd : p.cmd = 0x50000000) :
    pinEdge p true s = .next (respond 0 (setBusy (load (clearRsp s)))) := by
  have hd : decode p.cmd p.wdata = some .start := (startCompletes.1 p.cmd p.wdata).mpr hcmd
  simp only [pinEdge, hrst, hb, Bool.false_and, Bool.false_eq_true, if_false, portEdge, hv, if_true,
    acceptCommand_clear hf, issueCommand_legal hd]
  exact execStart_written hb hw

/-- Settles O58: START sets the course, and each edge follows it by one round, the last by FINAL. -/
theorem nominalCompressionTakes65Edges : Obligations.NominalCompressionTakes65Edges := by
  intro s first ps hb hf hw hrst hv hcmd hps
  rw [nominalEdges_cons (pinEdge_start hb hf ((allWritten_iff s).mpr hw) hrst hv hcmd)]
  have hc : InFlight (respond 0 (setBusy (load (clearRsp s)))) :=
    (InFlight.start (clearRsp s)).congr rfl rfl rfl rfl rfl rfl
  refine ⟨fun hlen => ?_, fun hlen => ?_⟩
  · obtain ⟨t, ht, -, hrun, htj⟩ := nominalEdges_running hc rfl hf hps (by simpa using hlen)
    exact ⟨t, by simpa [nominalEdges] using ht [], hrun.busy, by simpa using htj⟩
  · obtain rfl | ⟨qs, last, rfl⟩ := ps.eq_nil_or_concat'
    · cases hlen
    · obtain ⟨hqs, hlast⟩ := List.forall_mem_append.mp hps
      obtain ⟨t, ht, hH, hidle, hdone, -⟩ :=
        nominalEdges_compressed hc rfl hf hqs (hlast last (List.mem_singleton_self last)) (by simpa using hlen)
      exact ⟨t, ht, hidle, hdone, hH⟩

end Sys2Proof.Machine
end
